-- ==== Sys2Proof/Word.lean ====
section
/-! DEFINITION. The word types of the engine: 32-bit host words, 8-bit bus bytes, and the level of a line. -/

namespace Sys2Proof

/-- A host word: CMD, DATA, STATUS (spec 20 R51, R58). -/
abbrev Word := BitVec 32

/-- A byte on the bus, a segment byte, a glyph (spec 30 R78, R79). -/
abbrev Byte := BitVec 8

/-- The level of a line (spec 00 R13): level 0 is low, level 1 is high. -/
inductive Level
  | low
  | high
deriving DecidableEq, Repr, Inhabited

/-- The bit a level stands for (spec 00 R13). -/
def Level.bit : Level → BitVec 1
  | .low => 0#1
  | .high => 1#1

/-- The bit a flag stands for. -/
def flagBit : Bool → BitVec 1
  | false => 0#1
  | true => 1#1

end Sys2Proof
end

