-- ==== Sys2Proof/Syntax.lean ====
section
/-! DEFINITION. The commands of the engine, one constructor per row of spec/opcode_table.json (spec 30 R74). -/

namespace Sys2Proof

/-- A command with the operands its words carry (spec 30 R71, R72). A field holds every value its bits admit, also one the
engine raises a fault for (30 R82). -/
inductive Instr
  /-- INIT (43 R191). -/
  | init
  /-- SETBR level, on (43 R193): LEVEL = CMD[13:11], ON = CMD[10]. -/
  | setbr (level : BitVec 3) (on : Bool)
  /-- START (40 R107). -/
  | start
  /-- STOP (40 R108). -/
  | stop
  /-- WRBYTE b (40 R109): b = DATA[7:0]. -/
  | wrbyte (b : Byte)
  /-- WRSEG (41 R134): POS = CMD[5:4], LEN = CMD[8:6], and DATA, whose byte k is segment byte k. -/
  | wrseg (pos : BitVec 2) (len : BitVec 3) (data : Word)
  /-- SHOWBASE (42 R166): BASE = CMD[31:24] (signed), DATA[15:0], DOTS = CMD[23:16], LZ = CMD[9], LEN, POS. -/
  | showbase (base : BitVec 8) (value : BitVec 16) (dots : Byte) (lz : Bool) (len : BitVec 3) (pos : BitVec 2)
  /-- SHOWDEC (42 R167): DATA[15:0] (signed), DOTS, LZ, LEN, POS. -/
  | showdec (value : BitVec 16) (dots : Byte) (lz : Bool) (len : BitVec 3) (pos : BitVec 2)
  /-- SHOWHEX (42 R168): DATA[15:0] (unsigned), DOTS, LZ, LEN, POS. -/
  | showhex (value : BitVec 16) (dots : Byte) (lz : Bool) (len : BitVec 3) (pos : BitVec 2)
  /-- ENCDIG d (42 R154): d = DATA[7:0]. -/
  | encdig (d : Byte)
  /-- CLEAR (41 R135). -/
  | clear
  /-- BITDLY (40 R106). -/
  | bitdly
deriving DecidableEq, Repr

end Sys2Proof
end

