-- ==== Sys2Proof/WellFormed.lean ====
section
/-! DEFINITION. Which commands are well formed. Spec 60 R210 calls checks 1 to 5 the encoding checks, so "whether a word is
well-formed never depends on the session state". The checks are said here on numbers, apart from the masks the decoder uses
and from the tests the meanings run. -/

namespace Sys2Proof

/-- LEN is 1 to 4 (30 R77). -/
def lenInRange (len : BitVec 3) : Bool := 1 ≤ len.toNat && len.toNat ≤ 4

/-- POS + LEN is at most 4 (30 R77, 20 R52). -/
def posInRange (pos : BitVec 2) (len : BitVec 3) : Bool := pos.toNat + len.toNat ≤ 4

/-- The magnitude of the signed base is 2 to 36 (60 R203). -/
def baseInRange (base : BitVec 8) : Bool := 2 ≤ base.toInt.natAbs && base.toInt.natAbs ≤ 36

/-- DATA holds nothing above its LEN segment bytes (30 R72, row WRSEG). -/
def dataFits (len : BitVec 3) (data : Word) : Bool := data.toNat < 256 ^ len.toNat

/-- The command's words carry no reserved bit (30 R76): only WRSEG's term can hold one, in DATA. -/
def Instr.encodable : Instr → Bool
  | .wrseg _ len data => dataFits len data
  | .init => true
  | .setbr _ _ => true
  | .start => true
  | .stop => true
  | .wrbyte _ => true
  | .showbase _ _ _ _ _ _ => true
  | .showdec _ _ _ _ _ => true
  | .showhex _ _ _ _ _ => true
  | .encdig _ => true
  | .clear => true
  | .bitdly => true

/-- The command passes every encoding check of 60 R210 (checks 2 to 5; check 1 is that it is a command at all). -/
def Instr.wellFormed : Instr → Bool
  | .wrseg pos len data => lenInRange len && dataFits len data && posInRange pos len
  | .showbase base _ _ _ len pos => lenInRange len && posInRange pos len && baseInRange base
  | .showdec _ _ _ len pos => lenInRange len && posInRange pos len
  | .showhex _ _ _ len pos => lenInRange len && posInRange pos len
  | .init => true
  | .setbr _ _ => true
  | .start => true
  | .stop => true
  | .wrbyte _ => true
  | .encdig _ => true
  | .clear => true
  | .bitdly => true

end Sys2Proof
end

