-- ==== Sys2Proof/Decode.lean ====
section
/-! DEFINITION. The command words (spec 30, part A): the fields of CMD and DATA, the decoder, total on any pair of words and
rejecting by fault code, the encoder, and the host's numbering of a table word. -/

namespace Sys2Proof

/-- The fault codes of 60 R202 but for NONE (code 0, which is no fault). -/
inductive FaultCode
  /-- OP is 0x0 or 0xD to 0xF (60 R208). -/
  | illegalOp
  /-- A reserved bit of CMD or DATA is set (60 R209). -/
  | reservedField
  /-- LEN is not in 1..4 (60 R204). -/
  | badLength
  /-- POS + LEN > 4 (60 R205). -/
  | badRange
  /-- The magnitude of the base is not in 2..36 (60 R203). -/
  | badBase
  /-- A pin command while INIT = 0 (60 R206). -/
  | notInitialized
  /-- A display update while BRV = 0 (60 R207). -/
  | brightnessUnset
deriving DecidableEq, Repr

/-- The 4-bit code FCODE holds (60 R202). -/
def FaultCode.code : FaultCode → BitVec 4
  | .illegalOp => 1#4
  | .reservedField => 2#4
  | .badLength => 3#4
  | .badRange => 4#4
  | .badBase => 5#4
  | .notInitialized => 6#4
  | .brightnessUnset => 7#4

/-! The fields of CMD (30 R71). -/

/-- OP = CMD[3:0]. -/
def opField (cmd : Word) : BitVec 4 := cmd.extractLsb' 0 4
/-- POS = CMD[5:4]. -/
def posField (cmd : Word) : BitVec 2 := cmd.extractLsb' 4 2
/-- LEN = CMD[8:6]. -/
def lenField (cmd : Word) : BitVec 3 := cmd.extractLsb' 6 3
/-- LZ = CMD[9]. -/
def lzField (cmd : Word) : Bool := cmd.getLsbD 9
/-- ON = CMD[10]. -/
def onField (cmd : Word) : Bool := cmd.getLsbD 10
/-- LEVEL = CMD[13:11]. -/
def levelField (cmd : Word) : BitVec 3 := cmd.extractLsb' 11 3
/-- DOTS = CMD[23:16]. -/
def dotsField (cmd : Word) : Byte := cmd.extractLsb' 16 8
/-- BASE = CMD[31:24]. -/
def baseField (cmd : Word) : BitVec 8 := cmd.extractLsb' 24 8
/-- DATA[7:0] (30 R72). -/
def byteField (data : Word) : Byte := data.extractLsb' 0 8
/-- DATA[15:0] (30 R72). -/
def valueField (data : Word) : BitVec 16 := data.extractLsb' 0 16

/-- The bits of CMD that must be 0, by OP (30 R76). -/
def reservedCmd (op : BitVec 4) : Word :=
  match op.toNat with
  | 0x2 => 0xFFFFC3F0#32
  | 0x6 => 0xFFFFFE00#32
  | 0x7 => 0x0000FC00#32
  | 0x8 => 0xFF00FC00#32
  | 0x9 => 0xFF00FC00#32
  | _ => 0xFFFFFFF0#32

/-- WRSEG's mask over DATA: `0xFFFFFFFF << (8*LEN)`, masked to 32 bits (30 R76). -/
def reservedSegData (len : BitVec 3) : Word := 0xFFFFFFFF#32 <<< (8 * len.toNat)

/-- The bits of DATA that must be 0, by OP and, for WRSEG, by LEN (30 R76). -/
def reservedData (op : BitVec 4) (len : BitVec 3) : Word :=
  match op.toNat with
  | 0x5 => 0xFFFFFF00#32
  | 0xA => 0xFFFFFF00#32
  | 0x6 => reservedSegData len
  | 0x7 => 0xFFFF0000#32
  | 0x8 => 0xFFFF0000#32
  | 0x9 => 0xFFFF0000#32
  | _ => 0xFFFFFFFF#32

/-- No reserved bit of the pair is set (30 R76). -/
def reservedClear (cmd data : Word) : Bool :=
  cmd &&& reservedCmd (opField cmd) == 0#32 && data &&& reservedData (opField cmd) (lenField cmd) == 0#32

/-- The four commands that carry LEN (30 R71, R77). -/
def carriesLength (op : BitVec 4) : Bool :=
  match op.toNat with
  | 0x6 => true
  | 0x7 => true
  | 0x8 => true
  | 0x9 => true
  | _ => false

/-- LEN is legal: 1, 2, 3 or 4 (30 R77). -/
def lengthOk (len : BitVec 3) : Bool :=
  match len.toNat with
  | 1 => true
  | 2 => true
  | 3 => true
  | 4 => true
  | _ => false

/-- The command OP selects, with its operands (30 R74): OP "alone selects the command" (30 R70). None for the illegal values
0x0 and 0xD to 0xF (30 R75). -/
def select (cmd data : Word) : Option Instr :=
  match (opField cmd).toNat with
  | 0x1 => some .init
  | 0x2 => some (.setbr (levelField cmd) (onField cmd))
  | 0x3 => some .start
  | 0x4 => some .stop
  | 0x5 => some (.wrbyte (byteField data))
  | 0x6 => some (.wrseg (posField cmd) (lenField cmd) data)
  | 0x7 => some (.showbase (baseField cmd) (valueField data) (dotsField cmd) (lzField cmd) (lenField cmd) (posField cmd))
  | 0x8 => some (.showdec (valueField data) (dotsField cmd) (lzField cmd) (lenField cmd) (posField cmd))
  | 0x9 => some (.showhex (valueField data) (dotsField cmd) (lzField cmd) (lenField cmd) (posField cmd))
  | 0xA => some (.encdig (byteField data))
  | 0xB => some .clear
  | 0xC => some .bitdly
  | _ => none

/-- The decoder. A pair it rejects is rejected with the fault code 60 R210 reports: ILLEGAL_OP first; then, for a set reserved
bit, BAD_LENGTH where the command carries an illegal LEN, else RESERVED_FIELD. DEDUCED (log 22): a pair with an illegal LEN and
no reserved bit decodes, and the command's own check raises BAD_LENGTH. -/
def decode (cmd data : Word) : Except FaultCode Instr :=
  match select cmd data with
  | none => .error .illegalOp
  | some i =>
    if reservedClear cmd data then .ok i
    else if carriesLength (opField cmd) && !lengthOk (lenField cmd) then .error .badLength
    else .error .reservedField

/-- The OP of a command (30 R74). -/
def Instr.op : Instr → BitVec 4
  | .init => 0x1#4
  | .setbr _ _ => 0x2#4
  | .start => 0x3#4
  | .stop => 0x4#4
  | .wrbyte _ => 0x5#4
  | .wrseg _ _ _ => 0x6#4
  | .showbase _ _ _ _ _ _ => 0x7#4
  | .showdec _ _ _ _ _ => 0x8#4
  | .showhex _ _ _ _ _ => 0x9#4
  | .encdig _ => 0xA#4
  | .clear => 0xB#4
  | .bitdly => 0xC#4

/-- CMD of a command without operands in CMD: OP alone (30 R81). -/
def plainCmd (op : BitVec 4) : Word := 0#28 ++ op

/-- CMD of the SHOW commands: BASE, DOTS, six reserved zeros, LZ, LEN, POS, OP from bit 31 down (30 R71). -/
def showCmd (base : BitVec 8) (dots : Byte) (lz : Bool) (len : BitVec 3) (pos : BitVec 2) (op : BitVec 4) : Word :=
  base ++ dots ++ 0#6 ++ flagBit lz ++ len ++ pos ++ op

/-- The words of a command (30 R71, R72, R81): CMD, then DATA. -/
def encode : Instr → Word × Word
  | .init => (plainCmd 0x1#4, 0#32)
  | .setbr level on => (0#18 ++ level ++ flagBit on ++ 0#6 ++ 0x2#4, 0#32)
  | .start => (plainCmd 0x3#4, 0#32)
  | .stop => (plainCmd 0x4#4, 0#32)
  | .wrbyte b => (plainCmd 0x5#4, 0#24 ++ b)
  | .wrseg pos len data => (0#23 ++ len ++ pos ++ 0x6#4, data)
  | .showbase base value dots lz len pos => (showCmd base dots lz len pos 0x7#4, 0#16 ++ value)
  | .showdec value dots lz len pos => (showCmd 0#8 dots lz len pos 0x8#4, 0#16 ++ value)
  | .showhex value dots lz len pos => (showCmd 0#8 dots lz len pos 0x9#4, 0#16 ++ value)
  | .encdig d => (plainCmd 0xA#4, 0#24 ++ d)
  | .clear => (plainCmd 0xB#4, 0#32)
  | .bitdly => (plainCmd 0xC#4, 0#32)

/-- The pair of words of an instruction whose bits are w, numbered as the opcode table numbers them: CMD is bits 31..0, DATA is
bits 63..32; every bit at or above nbits is 0. -/
def tablePair (nbits w : Nat) : Word × Word :=
  (BitVec.ofNat 32 (w % 2 ^ nbits), BitVec.ofNat 32 (w % 2 ^ nbits / 2 ^ 32))

/-- The instruction the decoder reads from a table word. -/
def decodeTableWord (nbits w : Nat) : Option Instr :=
  match decode (tablePair nbits w).1 (tablePair nbits w).2 with
  | .ok i => some i
  | .error _ => none

end Sys2Proof
end

