-- ==== Sys2Proof/Config.lean ====
section
/-! DEFINITION. What is fixed for one instance (spec 00 R8, 10 R22) and the values the spec leaves open, as opaque
constants without a body. -/

namespace Sys2Proof

/-- The configuration of one instance: the creation arguments of 10 R22 and the parameters of 00 R8. It is a field of
State, so a statement about every state is a statement about every configuration. -/
structure Config where
  /-- PORT, an opaque handle (10 R22). -/
  port : Nat
  /-- CLK_PIN, an opaque identifier (10 R22). -/
  clkPin : Nat
  /-- DIO_PIN, an opaque identifier (10 R22). -/
  dioPin : Nat
  /-- BIT_DELAY, in delay units (10 R22). -/
  bitDelay : Nat
  /-- CMD_DATA, the data command byte (00 R8, 30 R78). -/
  cmdData : Byte
  /-- CMD_ADDR, the address command byte; bits 1:0 are 0 (00 R9). -/
  cmdAddr : Byte
  /-- CMD_DISPLAY, the display-control command byte; bits 3:0 are 0 (00 R9). -/
  cmdDisplay : Byte
  /-- GLYPH[0..15], the glyph ROM (42 R150). -/
  glyph : Vector Byte 16
  /-- MINUS_GLYPH (42 R153). -/
  minusGlyph : Byte
  /-- DOTS_IN_ZERO_CASE (42 R163). -/
  dotsInZeroCase : Bool
deriving DecidableEq, Repr

/-- The spec's default glyph table (42 R151). PRESUMED: the spec marks its values as general knowledge (log 8). -/
def Config.defaultGlyph : Vector Byte 16 :=
  #v[0x3F#8, 0x06#8, 0x5B#8, 0x4F#8, 0x66#8, 0x6D#8, 0x7D#8, 0x07#8,
     0x7F#8, 0x6F#8, 0x77#8, 0x7C#8, 0x39#8, 0x5E#8, 0x79#8, 0x71#8]

/-- BIT_DELAY of the instance that State.reset creates: OPEN in the spec (00 R8), so no value is known (log 7). -/
opaque Config.resetBitDelay : Nat

/-- The instance State.reset creates: the spec's defaults (00 R8). DESIGN CHOICE: the three identifiers (log 7). -/
def Config.initial : Config where
  port := 0
  clkPin := 0
  dioPin := 1
  bitDelay := Config.resetBitDelay
  cmdData := 0x40#8
  cmdAddr := 0xC0#8
  cmdDisplay := 0x80#8
  glyph := Config.defaultGlyph
  minusGlyph := 0x40#8
  dotsInZeroCase := true

/-- DELAY_UNIT_TIME, the duration of one delay unit (00 R8): OPEN, no rule depends on it (log 19). -/
opaque Config.delayUnitTime : Nat

/-- HOST_BASE, where the host register block sits (20 R64): OPEN. DESIGN CHOICE: one address for each instance, by its stream, as a
number of no fixed width (log 21). -/
opaque Config.hostBase : Nat → Nat

/-! The constants below are applied to the stream of an instance first (log 11). -/

/-- DESIGN CHOICE: BRT right after reset, UNSPECIFIED in 10 R38 (log 4). -/
opaque Config.resetBrt : Nat → BitVec 4

/-- DESIGN CHOICE: LAST_ACK right after reset, UNSPECIFIED in 10 R38 (log 4). -/
opaque Config.resetLastAck : Nat → Level

/-- DESIGN CHOICE: FRAME[i] right after reset, UNSPECIFIED in 10 R38 (log 4). -/
opaque Config.resetFrame : Nat → Nat → Byte

/-- DESIGN CHOICE: RESULT right after reset, UNSPECIFIED in 10 R38 (log 4). -/
opaque Config.resetResult : Nat → Byte

/-- DESIGN CHOICE: the DATA word right after reset, before the host writes it (20 R51; log 6). -/
opaque Config.resetData : Nat → Word

/-- Free value: the level the bus environment answers to the n-th sample when State names none (10 R31; log 9). -/
opaque Config.freeLevel : Nat → Nat → Level

/-- Free value: a byte of FRAME past LEN after an encode (42 R164; log 10). -/
opaque Config.freeByte : Nat → Nat → Byte

/-- Free value: bit 3 of STATUS while ACKV = 0 (10 R34; log 12). -/
opaque Config.freeStatusBit : Nat → Nat → Level

/-- Free value: what a read of a write-only word gives (20 R51 names none; log 14). -/
opaque Config.freeWord : Nat → Nat → Word

end Sys2Proof
end

