-- ==== Sys2Proof/Machine/State.lean ====
section
/-! DEFINITION. The state of one engine instance as plain data (spec 10), the events of the bus trace (00 R14), the host's
accesses (20 R51), the reasons a step can stop, and the state right after reset (10 R38). -/

namespace Sys2Proof.Machine

/-- The two pins (20 R53). -/
inductive Pin
  | clk
  | dio
deriving DecidableEq, Repr

/-- A direction (00 R13): OUT (output) drives the line low, IN (input) releases it. -/
inductive Dir
  | input
  | output
deriving DecidableEq, Repr

/-- CLK_DIR and DIO_DIR: the direction the engine last set. Before it set one "The model holds it as *unknown*" (10 R23, R24). -/
inductive DirReg
  | unknown
  | known (d : Dir)
deriving DecidableEq, Repr

/-- The alphabet of the bus trace (00 R14). -/
inductive Event
  /-- DIR(p, d). -/
  | dir (p : Pin) (d : Dir)
  /-- WR(p, LOW). -/
  | wrLow (p : Pin)
  /-- RD(DIO, a). -/
  | rdDio (a : Level)
  /-- DLY(n). -/
  | dly (n : Nat)
deriving DecidableEq, Repr

/-- A call of the GPIO capability interface (60 R216). -/
inductive GpioCall
  | configurePinDirection (port pin : Nat) (d : Dir)
  | writePin (port pin : Nat) (level : Level)
  | readPin (port pin : Nat) (answer : Level)
  | delay (units : Nat)
deriving DecidableEq, Repr

/-- What the host does to the engine (10 R33, 20 R51, 70 R230): write or read a 32-bit word at an offset, or reset. -/
inductive HostAccess
  | write (offset value : Word)
  | read (offset : Word)
  | reset
deriving DecidableEq, Repr

/-- The registers a host read can find unwritten (10 R35). -/
inductive ValidReg
  | result
  | brt
  | lastAck
deriving DecidableEq, Repr

/-- What one host read observes: the word, and the register the read found unwritten, "a fault of the observation, not … a value"
(10 R35). A read of RESULT or BRT that finds it unwritten gives no word; STATUS gives its word, in which the bit of an unwritten
LAST_ACK is open (10 R34). The engine is left as it was. DESIGN CHOICE: the form of the record (log 13). -/
structure Observation where
  word : Option Word
  unwritten : Option ValidReg
deriving DecidableEq, Repr

/-- One completed read of the host. -/
structure HostRead where
  offset : Word
  seen : Observation
deriving DecidableEq, Repr

/-- Why the machine stops. -/
inductive Fault
  /-- Raised by the host interface when a command is issued while FCODE is not 0: "A command issued when `FCODE != 0` is not
  accepted. The engine does not step, and the host's program stops there" (10 R33). Safe. -/
  | notAccepted
deriving DecidableEq, Repr

/-- Why the model refuses. -/
inductive Refusal
  /-- Raised by exec for an instruction that has no meaning yet (none is left). Safe. -/
  | notModelled (mnemonic : String)
  /-- Raised by the step, and when a system is built, for a configuration that breaks 00 R9, 10 R22 or 92 D5
  (log 8). Safe. -/
  | badConfiguration
  /-- Raised when a system is built from instances that share a pin (60 R218). Safe. -/
  | sharedPin
deriving DecidableEq, Repr

/-- The state of one instance (10 R22 to R30, R37; 20 R51), the inputs from outside it that are still to come, and three fields
of the model's own. -/
structure State where
  /-- The configuration of the instance (10 R22, 00 R3, R8). -/
  config : Config
  /-- CLK_DIR (10 R23). -/
  clkDir : DirReg
  /-- DIO_DIR (10 R24). -/
  dioDir : DirReg
  /-- INIT (10 R25). -/
  init : Bool
  /-- BRT (10 R26). -/
  brt : BitVec 4
  /-- BRV (10 R26). -/
  brv : Bool
  /-- LAST_ACK, the sampled level (10 R27). -/
  lastAck : Level
  /-- ACKV (10 R27). -/
  ackv : Bool
  /-- FRAME[0..3] (10 R28). -/
  frame : Vector Byte 4
  /-- RESULT (10 R29). -/
  result : Byte
  /-- RV (10 R29). -/
  rv : Bool
  /-- FCODE (10 R30). -/
  fcode : BitVec 4
  /-- TRACE, oldest event first (10 R37). -/
  trace : List Event
  /-- DATA, the word the host wrote last (20 R51). -/
  dataReg : Word
  /-- Input: the host's accesses still to come, oldest first (10 R21, R33). -/
  requests : List HostAccess
  /-- Input: the levels the bus environment answers to the next samples (10 R31). -/
  acks : List Level
  /-- The model's own record of what the host has read, oldest first. -/
  reads : List HostRead
  /-- The model's own counter, to which the free values are applied (log 11). -/
  freeCount : Nat
  /-- The model's own number of the instance, to which the free values are applied first: those of different streams are unrelated
  (log 11). -/
  stream : Nat
deriving DecidableEq, Repr

/-- The state right after the creation of an instance with configuration c (10 R38, 70 R230), as instance k of its system. The values
10 R38 leaves UNSPECIFIED are opaque constants. DESIGN CHOICE (log 4, 6): they depend on k alone. DESIGN CHOICE (log 9): no draw
is listed, so the draws are the free levels of stream k from 0 on. -/
def State.create (c : Config) (k : Nat) : State where
  config := c
  clkDir := .unknown
  dioDir := .unknown
  init := false
  brt := Config.resetBrt k
  brv := false
  lastAck := Config.resetLastAck k
  ackv := false
  frame := #v[Config.resetFrame k 0, Config.resetFrame k 1, Config.resetFrame k 2, Config.resetFrame k 3]
  result := Config.resetResult k
  rv := false
  fcode := 0#4
  trace := []
  dataReg := Config.resetData k
  requests := []
  acks := []
  reads := []
  freeCount := 0
  stream := k

/-- The machine right after reset (70 R230). -/
def State.reset : State := State.create Config.initial 0

end Sys2Proof.Machine
end

