-- ==== Sys2Proof/Machine/Ops.lean ====
section
/-! DEFINITION. The shared operations: the primitives of spec 00 R12, raising a fault (60 R201), running a command behind its
checks (60 R210), the configuration check (00 R9, 10 R22), the levels the engine puts on the lines (10 R32) and the GPIO calls
(60 R216). -/

namespace Sys2Proof.Machine

/-- The outcome of a command or a step. -/
abbrev Result := Host.Outcome State Fault Refusal

/-- Append one event to the trace (10 R37). -/
def emit (e : Event) (s : State) : State := { s with trace := s.trace ++ [e] }

/-- Write CLK_DIR or DIO_DIR. -/
def setDirReg (p : Pin) (d : Dir) (s : State) : State :=
  match p with
  | .clk => { s with clkDir := .known d }
  | .dio => { s with dioDir := .known d }

/-- SetDir(p, d): writes the direction and always emits DIR(p, d), also when d is the current direction (00 R12). -/
def setDir (p : Pin) (d : Dir) (s : State) : State := emit (.dir p d) (setDirReg p d s)

/-- WritePin(p, LOW): emits WR(p, LOW) and changes no direction (00 R12). -/
def writePinLow (p : Pin) (s : State) : State := emit (.wrLow p) s

/-- Delay(), which is also BitDelay(): emits DLY(BIT_DELAY) and changes no state (00 R12, 40 R100). -/
def bitDelay (s : State) : State := emit (.dly s.config.bitDelay) s

/-- The level the bus environment answers next: the first level State names, else a free value (10 R31; log 9). DESIGN CHOICE: the
free value is applied to the instance's stream and counter, so the draws of instances with different streams are unrelated
(20 R61, 60 R218; log 11). -/
def nextLevel (s : State) : Level :=
  match s.acks with
  | a :: _ => a
  | [] => Config.freeLevel s.stream s.freeCount

/-- The state once one draw is taken. -/
def takeDraw (s : State) : State := { s with acks := s.acks.tail, freeCount := s.freeCount + 1 }

/-- The state after Sample(DIO): emits RD(DIO, a) for the draw a (00 R12). The sampled level itself is nextLevel s. -/
def sampleDio (s : State) : State := emit (.rdDio (nextLevel s)) (takeDraw s)

/-- raise Fault(code): FCODE is written, every other field is unchanged and no event is emitted (60 R201). -/
def raiseFault (c : FaultCode) (s : State) : State := { s with fcode := c.code }

/-- The first check that fails, in list order: "the first in this order is reported, and only that one" (60 R210). A check is a
fault code and whether its condition holds. -/
def firstFailing : List (FaultCode × Bool) → Option FaultCode
  | [] => none
  | (c, true) :: _ => some c
  | (_, false) :: rest => firstFailing rest

/-- Run a command behind its checks: the first failing check raises its fault, a next state in which nothing but FCODE has
changed; with no failing check the command has its effect (60 R201, R210). -/
def guarded (checks : List (FaultCode × Bool)) (effect : State → State) (s : State) : Result :=
  match firstFailing checks with
  | some c => .next (raiseFault c s)
  | none => .next (effect s)

/-- No two entries of a list are equal. -/
def distinct : List Byte → Bool
  | [] => true
  | g :: gs => !gs.contains g && distinct gs

/-- The glyph table has the properties 92 D5 demands of any table (42 R170): injective, neither 0x00 nor MINUS_GLYPH in it, and
bit 7 clear in every entry. -/
def glyphsOk (c : Config) : Bool :=
  distinct c.glyph.toList && c.glyph.toList.all (fun g => g != 0x00#8 && g != c.minusGlyph && !g.getLsbD 7)

/-- The configurations the model accepts: CMD_ADDR[1:0] = 0 and CMD_DISPLAY[3:0] = 0 (00 R9), CLK_PIN differs from DIO_PIN
(10 R22), and the glyph table is one that 92 D5 allows (log 8). -/
def configOk (c : Config) : Bool :=
  c.cmdAddr &&& 0x03#8 == 0#8 && c.cmdDisplay &&& 0x0F#8 == 0#8 && c.clkPin != c.dioPin && glyphsOk c

/-- The level of a line the engine holds in direction d, where pulledLow says whether another device pulls it low
(00 R13, 10 R32). -/
def lineLevel (d : Dir) (pulledLow : Bool) : Level :=
  match d with
  | .output => .low
  | .input => if pulledLow then .low else .high

/-- The identifier of a pin in the configuration (00 R14: p names CLK_PIN or DIO_PIN). -/
def pinOf (c : Config) (p : Pin) : Nat :=
  match p with
  | .clk => c.clkPin
  | .dio => c.dioPin

/-- The call of the capability interface an event stands for (00 R14, 60 R216). Every event is on the instance's PORT. -/
def gpioCall (c : Config) (e : Event) : GpioCall :=
  match e with
  | .dir p d => .configurePinDirection c.port (pinOf c p) d
  | .wrLow p => .writePin c.port (pinOf c p) .low
  | .rdDio a => .readPin c.port (pinOf c .dio) a
  | .dly n => .delay n

/-- The calls the instance has made, oldest first (60 R216). -/
def gpioCalls (s : State) : List GpioCall := s.trace.map (gpioCall s.config)

end Sys2Proof.Machine
end

