-- ==== Sys2Proof/Machine/Flags.lean ====
section
/-! DEFINITION. The status bits: the packing of BRT (spec 10 R26, 43 R193), the writes of the valid bits beside their registers
(10 R26, R27, R29), and the STATUS, RESULT and BRT words the host reads (10 R34, R35). -/

namespace Sys2Proof.Machine

/-- BRT: bit 3 is ON, bits 2:0 are LEVEL; `(on << 3) | level` (10 R26, 43 R193). -/
def packBrightness (level : BitVec 3) (on : Bool) : BitVec 4 := flagBit on ++ level

/-- Write BRT and BRV (10 R26). -/
def setBrightness (b : BitVec 4) (s : State) : State := { s with brt := b, brv := true }

/-- Write LAST_ACK and ACKV (10 R27). -/
def setAck (a : Level) (s : State) : State := { s with lastAck := a, ackv := true }

/-- Write RESULT and RV (10 R29). -/
def setResult (g : Byte) (s : State) : State := { s with result := g, rv := true }

/-- Bit 3 of STATUS: LAST_ACK, "reads as UNSPECIFIED while `ACKV = 0`" (10 R34), a free value then (log 12). -/
def statusAck (s : State) : Level := if s.ackv then s.lastAck else Config.freeStatusBit s.stream s.freeCount

/-- STATUS (10 R34), from bit 31 down: zeros, FCODE at 11:8, zeros at 7:5, RV, LAST_ACK, ACKV, BRV, INIT. -/
def statusWord (s : State) : Word :=
  0#20 ++ s.fcode ++ 0#3 ++ flagBit s.rv ++ (statusAck s).bit ++ flagBit s.ackv ++ flagBit s.brv ++ flagBit s.init

/-- RESULT as a host word, zero-extended (10 R35). -/
def resultWord (s : State) : Word := 0#24 ++ s.result

/-- BRT as a host word, zero-extended (10 R35). -/
def brtWord (s : State) : Word := 0#28 ++ s.brt

end Sys2Proof.Machine
end

