-- ==== Sys2Proof/Machine/Operands.lean ====
section
/-! DEFINITION. The operand forms (spec 30 R71 to R73) and the checks on them (60 R203 to R207). -/

namespace Sys2Proof.Machine

/-- POS as a number (30 R73). -/
def posValue (pos : BitVec 2) : Nat := pos.toNat

/-- LEN as a number (30 R73). -/
def lenValue (len : BitVec 3) : Nat := len.toNat

/-- b = signed_8(BASE) (30 R73). -/
def signedBase (base : BitVec 8) : Int := base.toInt

/-- An unsigned 16-bit value (30 R72, rows SHOWBASE and SHOWHEX). -/
def unsignedValue (value : BitVec 16) : Nat := value.toNat

/-- signed_16(DATA[15:0]) (30 R72, row SHOWDEC). -/
def signedValue (value : BitVec 16) : Int := value.toInt

/-- Segment byte k is DATA[8k+7:8k] (20 R56, 30 R72). -/
def segByte (data : Word) (k : Nat) : Byte := data.extractLsb' (8 * k) 8

/-- The L segment bytes of DATA, byte 0 first (41 R134). -/
def segBytes (data : Word) (L : Nat) : List Byte := (List.range L).map (segByte data)

/-- BAD_LENGTH: LEN is not in 1..4 (60 R204). -/
def badLength (len : BitVec 3) : Bool := !lengthOk len

/-- RESERVED_FIELD of WRSEG: DATA holds a bit above its LEN bytes (30 R76, 60 R209). -/
def badSegData (len : BitVec 3) (data : Word) : Bool := data &&& reservedSegData len != 0#32

/-- BAD_RANGE: POS + LEN > 4 (60 R205). -/
def badRange (pos : BitVec 2) (len : BitVec 3) : Bool := 4 < posValue pos + lenValue len

/-- BAD_BASE: the magnitude of the signed base is below 2 or above 36 (60 R203). -/
def badBase (base : BitVec 8) : Bool := (signedBase base).natAbs < 2 || 36 < (signedBase base).natAbs

/-- The state checks of a pin command: NOT_INITIALIZED (60 R206). -/
def pinChecks (s : State) : List (FaultCode × Bool) := [(.notInitialized, !s.init)]

/-- The state checks of a display update: NOT_INITIALIZED, then BRIGHTNESS_UNSET (60 R206, R207, R210). -/
def updateChecks (s : State) : List (FaultCode × Bool) := [(.notInitialized, !s.init), (.brightnessUnset, !s.brv)]

/-- ShowChecks(L, P) (42, section 3; 60 R210) for the SHOW commands whose base is fixed. Their reserved bits are the decoder's
check. -/
def showChecks (pos : BitVec 2) (len : BitVec 3) (s : State) : List (FaultCode × Bool) :=
  (.badLength, badLength len) :: (.badRange, badRange pos len) :: updateChecks s

/-- ShowChecks(L, P) of SHOWBASE, with the base check between the encoding checks and the state checks (60 R210). -/
def showBaseChecks (base : BitVec 8) (pos : BitVec 2) (len : BitVec 3) (s : State) : List (FaultCode × Bool) :=
  (.badLength, badLength len) :: (.badRange, badRange pos len) :: (.badBase, badBase base) :: updateChecks s

/-- The checks of WRSEG (41 R134). -/
def wrsegChecks (pos : BitVec 2) (len : BitVec 3) (data : Word) (s : State) : List (FaultCode × Bool) :=
  (.badLength, badLength len) :: (.reservedField, badSegData len data) :: (.badRange, badRange pos len) :: updateChecks s

end Sys2Proof.Machine
end

