-- ==== Sys2Proof/Machine/Protocol.lean ====
section
/-! DEFINITION. The protocol procedures of spec 40 (BitDelay is Ops.bitDelay) and the commands BITDLY, START, STOP and WRBYTE. -/

namespace Sys2Proof.Machine

/-- Start() (40 R101). -/
def startProc (s : State) : State := bitDelay (setDir .dio .output s)

/-- Stop() (40 R102). -/
def stopProc (s : State) : State :=
  s |> setDir .dio .output |> bitDelay |> setDir .clk .input |> bitDelay |> setDir .dio .input |> bitDelay

/-- The direction that shows a bit on DIO: released for 1, driven for 0 (40 R103). -/
def bitDir (v : Bool) : Dir := if v then .input else .output

/-- One bit period of WriteByte (40 R103). -/
def sendBit (v : Bool) (s : State) : State :=
  s |> setDir .clk .output |> bitDelay |> setDir .dio (bitDir v) |> bitDelay |> setDir .clk .input |> bitDelay

/-- The bits of a byte, bit 0 first (20 R54). -/
def bitsOf (b : Byte) : List Bool := (List.range 8).map (fun i => b.getLsbD i)

/-- The eight bit periods of WriteByte (40 R103). -/
def sendBits (b : Byte) (s : State) : State := (bitsOf b).foldl (fun t v => sendBit v t) s

/-- The acknowledgment phase up to the sample (40 R103): no delay between driving CLK and releasing DIO (40 R104). -/
def ackClock (s : State) : State :=
  s |> setDir .clk .output |> setDir .dio .input |> bitDelay |> setDir .clk .input |> bitDelay

/-- The acknowledgment phase from the sample on, for the sampled level a: the hold when a is low, the delay in both cases, then
CLK low again (40 R103, R105). -/
def ackHold (a : Level) (s : State) : State :=
  (match a with
    | .low => setDir .dio .output s
    | .high => s) |> bitDelay |> setDir .clk .output |> bitDelay

/-- WriteByte(b) (40 R103): the returned level and the state after. -/
def writeByte (b : Byte) (s : State) : Level × State :=
  let t := ackClock (sendBits b s)
  let a := nextLevel t
  (a, setAck a (ackHold a (sampleDio t)))

/-- BITDLY (40 R106): legal in every session state. -/
def execBitdly (s : State) : Result := .next (bitDelay s)

/-- START (40 R107): it does not check CLK_DIR. -/
def execStart (s : State) : Result := guarded (pinChecks s) startProc s

/-- STOP (40 R108). -/
def execStop (s : State) : Result := guarded (pinChecks s) stopProc s

/-- WRBYTE (40 R109): the acknowledgment stays in LAST_ACK. -/
def execWrbyte (b : Byte) (s : State) : Result := guarded (pinChecks s) (fun t => (writeByte b t).2) s

end Sys2Proof.Machine
end

