-- ==== Sys2Proof/Machine/Framing.lean ====
section
/-! DEFINITION. The display update of spec 41 and the commands WRSEG and CLEAR. -/

namespace Sys2Proof.Machine

/-- WriteByte whose returned acknowledgment is discarded (41 R131): LAST_ACK and ACKV are still written. -/
def sendByte (b : Byte) (s : State) : State := (writeByte b s).2

/-- One burst: Start, the bytes in order, Stop (00 R15, 41 R131). -/
def burst (bytes : List Byte) (s : State) : State := stopProc (bytes.foldl (fun t b => sendByte b t) (startProc s))

/-- The address command byte: `CMD_ADDR | zext_8(P[1:0])` (30 R78). -/
def addressByte (c : Config) (pos : BitVec 2) : Byte := c.cmdAddr ||| (0#6 ++ pos)

/-- The display-control byte: `CMD_DISPLAY | zext_8(BRT[3:0])` (30 R78). -/
def displayByte (c : Config) (brt : BitVec 4) : Byte := c.cmdDisplay ||| (0#4 ++ brt)

/-- WriteFrame(seg, L, P), with L the length of seg (41 R131): three bursts in this fixed order. BRT is read while phase 3 runs
(41 R133). -/
def writeFrame (seg : List Byte) (pos : BitVec 2) (s : State) : State :=
  let s1 := burst [s.config.cmdData] s
  let s2 := burst (addressByte s1.config pos :: seg) s1
  burst [displayByte s2.config s2.brt] s2

/-- WRSEG (41 R134): the bytes of DATA go out unchanged; FRAME is not written. -/
def execWrseg (pos : BitVec 2) (len : BitVec 3) (data : Word) (s : State) : Result :=
  guarded (wrsegChecks pos len data s) (writeFrame (segBytes data (lenValue len)) pos) s

/-- The blank segment byte (00 R15, 42 R153). -/
def blankByte : Byte := 0x00#8

/-- CLEAR (41 R135): WriteFrame of four blanks from position 0. -/
def execClear (s : State) : Result :=
  guarded (updateChecks s) (writeFrame [blankByte, blankByte, blankByte, blankByte] 0#2) s

end Sys2Proof.Machine
end

