-- ==== Sys2Proof/Machine/Numeral.lean ====
section
/-! DEFINITION. The glyph lookup and the numeral encoder of spec 42, and the commands ENCDIG, SHOWBASE, SHOWDEC and SHOWHEX. -/

namespace Sys2Proof.Machine

/-- EncodeDigit(d) = GLYPH[d mod 16], for any natural d (42 R152). -/
def encodeDigit (c : Config) (d : Nat) : Byte := c.glyph[d % 16]'(Nat.mod_lt d (by decide))

/-- The zero-suppressed case (42 R157): blanks, and GLYPH[0] at position L-1. -/
def zeroDigits (c : Config) (L : Nat) : List Byte := List.replicate (L - 1) blankByte ++ [encodeDigit c 0]

/-- The digit loop (42 R158 to R161), for the n positions 0 to n-1 still to set, least significant last: v is the running value,
neg the negative flag that a placed minus sign clears. The result is position 0 first. -/
def digitLoop (c : Config) (base : Nat) (lz : Bool) : Nat → Nat → Bool → List Byte
  | 0, _, _ => []
  | n + 1, v, neg =>
    if v % base = 0 ∧ v / base = 0 ∧ lz = false then
      if neg then digitLoop c base lz n (v / base) false ++ [c.minusGlyph]
      else digitLoop c base lz n (v / base) neg ++ [blankByte]
    else digitLoop c base lz n (v / base) neg ++ [encodeDigit c (v % base)]

/-- The mask loop of dot injection: bit 7 of m is ORed into each position, and m is shifted left one place after it (42 R163). -/
def injectDots : Byte → List Byte → List Byte
  | _, [] => []
  | m, f :: fs => (f ||| (m &&& 0x80#8)) :: injectDots (m <<< 1) fs

/-- Whether the zero-suppressed case applies (42 R157). -/
def zeroCase (mag : Nat) (lz : Bool) : Bool := mag == 0 && !lz

/-- FRAME[0..L-1] after EncodeNumber(b, mag, dots, lz, L) (42 R165). -/
def numeralBytes (c : Config) (b : Int) (mag : Nat) (dots : Byte) (lz : Bool) (L : Nat) : List Byte :=
  let digits := if zeroCase mag lz then zeroDigits c L else digitLoop c b.natAbs lz L mag (decide (b < 0))
  if dots ≠ 0#8 ∧ (zeroCase mag lz = false ∨ c.dotsInZeroCase = true) then injectDots dots digits else digits

/-- Byte i of FRAME after an encode of the bytes seg: seg's byte, or past them a free value, that of stream k at counter
n + i (42 R164; log 10). -/
def frameByte (seg : List Byte) (k n i : Nat) : Byte :=
  match seg[i]? with
  | some b => b
  | none => Config.freeByte k (n + i)

/-- Write FRAME: the bytes seg at positions 0 on, free values at the positions past them (10 R28, 42 R164). -/
def setFrame (seg : List Byte) (s : State) : State :=
  { s with
    frame := #v[frameByte seg s.stream s.freeCount 0, frameByte seg s.stream s.freeCount 1, frameByte seg s.stream s.freeCount 2,
                frameByte seg s.stream s.freeCount 3]
    freeCount := s.freeCount + 4 }

/-- EncodeNumber(b, mag, dots, lz, L) (42 R165). -/
def encodeNumber (b : Int) (mag : Nat) (dots : Byte) (lz : Bool) (L : Nat) (s : State) : State :=
  setFrame (numeralBytes s.config b mag dots lz L) s

/-- The effect the SHOW commands share: EncodeNumber, then WriteFrame(FRAME[0..L-1], L, P) (42 R166 to R168). -/
def showNumber (b : Int) (mag : Nat) (dots : Byte) (lz : Bool) (len : BitVec 3) (pos : BitVec 2) (s : State) : State :=
  let t := encodeNumber b mag dots lz (lenValue len) s
  writeFrame (t.frame.toList.take (lenValue len)) pos t

/-- ENCDIG (42 R154): legal in every session state. -/
def execEncdig (d : Byte) (s : State) : Result := .next (setResult (encodeDigit s.config d.toNat) s)

/-- SHOWBASE (42 R166). -/
def execShowbase (base : BitVec 8) (value : BitVec 16) (dots : Byte) (lz : Bool) (len : BitVec 3) (pos : BitVec 2) (s : State) :
    Result :=
  guarded (showBaseChecks base pos len s) (showNumber (signedBase base) (unsignedValue value) dots lz len pos) s

/-- The base SHOWDEC encodes with: -10 for a negative value, else 10 (42 R167). -/
def decimalBase (v : Int) : Int := if v < 0 then -10 else 10

/-- SHOWDEC (42 R167): the magnitude is taken on integers, so -32768 gives 32768. -/
def execShowdec (value : BitVec 16) (dots : Byte) (lz : Bool) (len : BitVec 3) (pos : BitVec 2) (s : State) : Result :=
  guarded (showChecks pos len s)
    (showNumber (decimalBase (signedValue value)) (signedValue value).natAbs dots lz len pos) s

/-- SHOWHEX (42 R168): base 16. -/
def execShowhex (value : BitVec 16) (dots : Byte) (lz : Bool) (len : BitVec 3) (pos : BitVec 2) (s : State) : Result :=
  guarded (showChecks pos len s) (showNumber 16 (unsignedValue value) dots lz len pos) s

end Sys2Proof.Machine
end

