-- ==== Sys2Proof/Machine/Session.lean ====
section
/-! DEFINITION. The session commands INIT and SETBR (spec 43). -/

namespace Sys2Proof.Machine

/-- Init() (43 R191): both latches low, then both lines released, no delay. -/
def initProc (s : State) : State :=
  { (s |> writePinLow .clk |> writePinLow .dio |> setDir .clk .input |> setDir .dio .input) with init := true }

/-- INIT (43 R191): legal in every session state. -/
def execInit (s : State) : Result := .next (initProc s)

/-- SETBR (43 R193): no event, legal in every session state. -/
def execSetbr (level : BitVec 3) (on : Bool) (s : State) : Result := .next (setBrightness (packBrightness level on) s)

end Sys2Proof.Machine
end

