-- ==== Sys2Proof/Machine/Dispatch.lean ====
section
/-! DEFINITION. The meaning of every command: one arm per constructor of Instr. -/

namespace Sys2Proof.Machine

def exec (i : Instr) (s : State) : Host.Outcome State Fault Refusal :=
  match i with
  | .init => Sys2Proof.Machine.execInit s
  | .setbr level on => Sys2Proof.Machine.execSetbr level on s
  | .start => Sys2Proof.Machine.execStart s
  | .stop => Sys2Proof.Machine.execStop s
  | .wrbyte b => Sys2Proof.Machine.execWrbyte b s
  | .wrseg pos len data => Sys2Proof.Machine.execWrseg pos len data s
  | .showbase base value dots lz len pos => Sys2Proof.Machine.execShowbase base value dots lz len pos s
  | .showdec value dots lz len pos => Sys2Proof.Machine.execShowdec value dots lz len pos s
  | .showhex value dots lz len pos => Sys2Proof.Machine.execShowhex value dots lz len pos s
  | .encdig d => Sys2Proof.Machine.execEncdig d s
  | .clear => Sys2Proof.Machine.execClear s
  | .bitdly => Sys2Proof.Machine.execBitdly s

end Sys2Proof.Machine
end

