-- ==== Sys2Proof/Machine/HostBus.lean ====
section
/-! DEFINITION. The host interface (spec 10 R33 to R35, 20 R51): issuing a command, writing and reading the host words, reset. -/

namespace Sys2Proof.Machine

/-- Issue the command (cmd, data) (10 R33): not accepted while FCODE is not 0; else the pair is decoded, and either its command
runs or the fault the decoder reports is raised (60 R208, R209). -/
def issue (cmd data : Word) (s : State) : Result :=
  if s.fcode = 0#4 then
    match decode cmd data with
    | .ok i => exec i s
    | .error c => .next (raiseFault c s)
  else .fault .notAccepted

/-- A host write (20 R51): CMD issues a command with the DATA written last; DATA is kept; a write anywhere else is ignored. -/
def hostWrite (offset value : Word) (s : State) : Result :=
  match offset.toNat with
  | 0x0 => issue value s.dataReg s
  | 0x4 => .next { s with dataReg := value }
  | _ => .next s

/-- A read that finds the register written. -/
def seenWord (w : Word) : Observation := ⟨some w, none⟩

/-- What the host observes at an offset (20 R51, 10 R34, R35): RESULT while RV = 0 and BRT while BRV = 0 are faults of the
observation, without a word; so is LAST_ACK while ACKV = 0, the one open bit of STATUS. An offset not listed reads as 0. CMD and
DATA are listed for writing only: what a read of them gives is not stated, a free value (log 14). -/
def observeWord (offset : Word) (s : State) : Observation :=
  match offset.toNat with
  | 0x0 => seenWord (Config.freeWord s.stream s.freeCount)
  | 0x4 => seenWord (Config.freeWord s.stream s.freeCount)
  | 0x8 => ⟨some (statusWord s), if s.ackv then none else some .lastAck⟩
  | 0xC => if s.rv then seenWord (resultWord s) else ⟨none, some .result⟩
  | 0x10 => if s.brv then seenWord (brtWord s) else ⟨none, some .brt⟩
  | _ => seenWord 0#32

/-- A host read: no side effect on the engine (10 R34, R35, 20 R59); the model records what was observed, and advances its counter
of free values. -/
def hostRead (offset : Word) (s : State) : Result :=
  .next { s with reads := s.reads ++ [⟨offset, observeWord offset s⟩], freeCount := s.freeCount + 1 }

/-- Reset: the creation of the instance with its configuration (70 R230); no event, no pin driven (70 R231). What is outside the
engine stays: the host's accesses still to come, the environment's draws, and the model's own fields (log 15). -/
def resetInstance (s : State) : State :=
  { State.create s.config s.stream with requests := s.requests, acks := s.acks, reads := s.reads, freeCount := s.freeCount }

/-- Serve one host access. -/
def serve (a : HostAccess) (s : State) : Result :=
  match a with
  | .write offset value => hostWrite offset value s
  | .read offset => hostRead offset s
  | .reset => .next (resetInstance s)

/-- The next host access. With none pending the engine is idle and nothing changes (60 R220, 70 R230). -/
def serveNext (s : State) : Result :=
  match s.requests with
  | [] => .next s
  | a :: rest => serve a { s with requests := rest }

/-- The platform address of an offset of the instance's host register block (20 R64). DESIGN CHOICE: a base for each instance, and a
sum of numbers, which does not wrap (log 21). -/
def hostAddress (offset : Word) (s : State) : Nat := Config.hostBase s.stream + offset.toNat

/-- The state in which the host has written data to DATA and writes cmd to CMD next. -/
def placeCommand (cmd data : Word) (s : State) : State :=
  { s with dataReg := data, requests := .write 0x0#32 cmd :: s.requests }

end Sys2Proof.Machine
end

