-- ==== Sys2Proof/Machine/Step.lean ====
section
/-! DEFINITION. One step of the machine: the next host access, served to completion (spec 10 R33, 60 R210). -/

namespace Sys2Proof.Machine

/-- One step. A configuration that breaks 00 R9, 10 R22 or 92 D5 is refused (log 8). -/
def step (s : State) : Host.Outcome State Fault Refusal :=
  if configOk s.config then serveNext s else .refused .badConfiguration

/-- s with the instruction of a table word as the next thing the host issues: its DATA word is in DATA and the write of its CMD
word comes first. The engine fetches nothing (10 R21), so this stands for the host's issue of the command (log 1). -/
def State.withFetchWord (s : State) (nbits w : Nat) : State := placeCommand (tablePair nbits w).1 (tablePair nbits w).2 s

end Sys2Proof.Machine
end

