-- ==== Sys2Proof/Machine/Assembler.lean ====
section
/-! DEFINITION. The assembler of spec 30, part C: the lines of R81 with operands as integers, the pseudo-instructions of R83, and
the operand ranges of R82. -/

namespace Sys2Proof.Machine

/-- A line of assembly (30 R81, R83). -/
inductive AsmLine
  | init
  | setbr (level on : Int)
  | start
  | stop
  | wrbyte (b : Int)
  | wrseg (pos : Int) (segs : List Int)
  | showbase (base value dots lz len pos : Int)
  | showdec (value dots lz len pos : Int)
  | showhex (value dots lz len pos : Int)
  | encdig (d : Int)
  | clear
  | bitdly
  | dec (v : Int)
  | decz (v : Int)
  | hex (v : Int)
  | hexz (v : Int)
  | frame (s0 s1 s2 s3 : Int)
  | send (b : Int)
deriving DecidableEq, Repr

/-- An unsigned operand of w bits; a value that does not fit is an assembly error (30 R82). -/
def asmField (w : Nat) (x : Int) : Option (BitVec w) :=
  if 0 ≤ x ∧ x < 2 ^ w then some (BitVec.ofInt w x) else none

/-- A signed operand of w bits (30 R82). -/
def asmSigned (w : Nat) (x : Int) : Option (BitVec w) :=
  if -(2 ^ (w - 1)) ≤ x ∧ x < 2 ^ (w - 1) then some (BitVec.ofInt w x) else none

/-- A one-bit operand: 0 or 1 (30 R82). -/
def asmFlag (x : Int) : Option Bool :=
  if x = 0 then some false else if x = 1 then some true else none

/-- DATA of WRSEG from its segment operands, byte k at DATA[8k+7:8k] (30 R81). -/
def asmSegs : List Int → Option Nat
  | [] => some 0
  | x :: xs =>
    match asmField 8 x, asmSegs xs with
    | some b, some n => some (b.toNat + 256 * n)
    | _, _ => none

/-- SHOWBASE (30 R81). -/
def asmShowbase (base value dots lz len pos : Int) : Option Instr := do
  let b ← asmSigned 8 base
  let v ← asmField 16 value
  let d ← asmField 8 dots
  let z ← asmFlag lz
  let l ← asmField 3 len
  let p ← asmField 2 pos
  return .showbase b v d z l p

/-- SHOWDEC (30 R81). -/
def asmShowdec (value dots lz len pos : Int) : Option Instr := do
  let v ← asmSigned 16 value
  let d ← asmField 8 dots
  let z ← asmFlag lz
  let l ← asmField 3 len
  let p ← asmField 2 pos
  return .showdec v d z l p

/-- SHOWHEX (30 R81). -/
def asmShowhex (value dots lz len pos : Int) : Option Instr := do
  let v ← asmField 16 value
  let d ← asmField 8 dots
  let z ← asmFlag lz
  let l ← asmField 3 len
  let p ← asmField 2 pos
  return .showhex v d z l p

/-- WRSEG (30 R81): LEN is the number of segment operands, one to four. -/
def asmWrseg (pos : Int) (segs : List Int) : Option Instr :=
  if 1 ≤ segs.length ∧ segs.length ≤ 4 then do
    let p ← asmField 2 pos
    let n ← asmSegs segs
    return .wrseg p (BitVec.ofNat 3 segs.length) (BitVec.ofNat 32 n)
  else none

/-- SETBR (30 R81). -/
def asmSetbr (level on : Int) : Option Instr := do
  let l ← asmField 3 level
  let o ← asmFlag on
  return .setbr l o

/-- WRBYTE (30 R81). -/
def asmWrbyte (b : Int) : Option Instr := do
  let x ← asmField 8 b
  return .wrbyte x

/-- ENCDIG (30 R81). -/
def asmEncdig (d : Int) : Option Instr := do
  let x ← asmField 8 d
  return .encdig x

/-- The commands of one line, in order; none for an assembly error (30 R81 to R83). -/
def assemble : AsmLine → Option (List Instr)
  | .init => some [.init]
  | .setbr level on => (asmSetbr level on).map (fun i => [i])
  | .start => some [.start]
  | .stop => some [.stop]
  | .wrbyte b => (asmWrbyte b).map (fun i => [i])
  | .wrseg pos segs => (asmWrseg pos segs).map (fun i => [i])
  | .showbase base value dots lz len pos => (asmShowbase base value dots lz len pos).map (fun i => [i])
  | .showdec value dots lz len pos => (asmShowdec value dots lz len pos).map (fun i => [i])
  | .showhex value dots lz len pos => (asmShowhex value dots lz len pos).map (fun i => [i])
  | .encdig d => (asmEncdig d).map (fun i => [i])
  | .clear => some [.clear]
  | .bitdly => some [.bitdly]
  | .dec v => (asmShowdec v 0 0 4 0).map (fun i => [i])
  | .decz v => (asmShowdec v 0 1 4 0).map (fun i => [i])
  | .hex v => (asmShowhex v 0 0 4 0).map (fun i => [i])
  | .hexz v => (asmShowhex v 0 1 4 0).map (fun i => [i])
  | .frame s0 s1 s2 s3 => (asmWrseg 0 [s0, s1, s2, s3]).map (fun i => [i])
  | .send b => (asmWrbyte b).map (fun i => [.start, i, .stop])

/-- The words the assembler produces for a line. -/
def assembleWords (l : AsmLine) : Option (List (Word × Word)) := (assemble l).map (fun is => is.map encode)

end Sys2Proof.Machine
end

