-- ==== Sys2Proof/Machine/System.lean ====
section
/-! DEFINITION. Several instances (spec 60 R218, R219, 20 R61): independent engines, each with its own state. -/

namespace Sys2Proof.Machine

/-- A system of instances. -/
structure System where
  instances : List State
deriving DecidableEq, Repr

/-- Two configurations share CLK_PIN or DIO_PIN on the same PORT (60 R218). -/
def sharePin (a b : Config) : Bool :=
  a.port == b.port && (a.clkPin == b.clkPin || a.clkPin == b.dioPin || a.dioPin == b.clkPin || a.dioPin == b.dioPin)

/-- Some two of the configurations share a pin. -/
def anySharedPin : List Config → Bool
  | [] => false
  | c :: cs => cs.any (sharePin c) || anySharedPin cs

/-- The instances of a list of configurations, each right after its own reset, numbered from k on. -/
def createFrom : Nat → List Config → List State
  | _, [] => []
  | k, c :: cs => State.create c k :: createFrom (k + 1) cs

/-- Create a system: one instance per configuration, right after reset. DESIGN CHOICE: the instances are numbered in order, and no
draw is listed for any; an instance's number is its stream, so that no draw and no other free value of one is one of another
(20 R61, 60 R218; log 11, 18). Refused when a configuration breaks its constraints
(00 R9, 10 R22, 92 D5) or two instances share a pin (60 R218). -/
def buildSystem (cs : List Config) : Except Refusal System :=
  if cs.all configOk then
    if anySharedPin cs then .error .sharedPin else .ok ⟨createFrom 0 cs⟩
  else .error .badConfiguration

/-- One step of instance k; the other instances do not change (60 R219). Which instance steps next is the caller's choice: any
interleaving is allowed (20 R61). With no instance k nothing happens. DESIGN CHOICE (log 30): where instance k stops, this pick of k
answers its stop and no next system; a pick of another instance, in the same system, is not affected. -/
def systemStep (k : Nat) (y : System) : Host.Outcome System Fault Refusal :=
  match y.instances[k]? with
  | none => .next y
  | some s =>
    match step s with
    | .next t => .next ⟨y.instances.set k t⟩
    | .fault f => .fault f
    | .refused r => .refused r

end Sys2Proof.Machine
end

