-- ==== Sys2Proof/Safety.lean ====
section
/-! DEFINITION. The terms the claims use: what the rules say a command puts on the bus and in the state, said without the
procedures that do it; an independent observer of the two lines; event counts; the fault a pair of words must raise; invariants. -/

namespace Sys2Proof.Machine

/-! ### The events of the procedures (spec 40, 41) -/

/-- The events of Start (40 R101). -/
def startEvents (n : Nat) : List Event := [.dir .dio .output, .dly n]

/-- The events of Stop (40 R102). -/
def stopEvents (n : Nat) : List Event :=
  [.dir .dio .output, .dly n, .dir .clk .input, .dly n, .dir .dio .input, .dly n]

/-- The events of one bit period (40 R103). -/
def bitEvents (n : Nat) (v : Bool) : List Event :=
  [.dir .clk .output, .dly n, .dir .dio (if v then .input else .output), .dly n, .dir .clk .input, .dly n]

/-- The hold of a low acknowledgment (40 R103). -/
def holdEvents : Level → List Event
  | .low => [.dir .dio .output]
  | .high => []

/-- The events of WriteByte(b) with draw a (40 R103, R111). -/
def byteEvents (n : Nat) (b : Byte) (a : Level) : List Event :=
  (List.range 8).flatMap (fun i => bitEvents n (b.getLsbD i))
    ++ [.dir .clk .output, .dir .dio .input, .dly n, .dir .clk .input, .dly n, .rdDio a]
    ++ holdEvents a ++ [.dly n, .dir .clk .output, .dly n]

/-- The events of WriteByte for each byte in turn, with its draw. -/
def bytesEvents (n : Nat) (bs : List Byte) (ds : List Level) : List Event :=
  (bs.zip ds).flatMap (fun p => byteEvents n p.1 p.2)

/-- The events of a burst (00 R15). -/
def burstEvents (n : Nat) (bs : List Byte) (ds : List Level) : List Event :=
  startEvents n ++ bytesEvents n bs ds ++ stopEvents n

/-- The bytes of a display update, one list for each of its three bursts (30 R78, 41 R131). -/
def updateBytes (c : Config) (brt : BitVec 4) (pos : BitVec 2) (seg : List Byte) : List (List Byte) :=
  [[c.cmdData], (c.cmdAddr ||| pos.setWidth 8) :: seg, [c.cmdDisplay ||| brt.setWidth 8]]

/-- The events of a display update with the draws ds, one for each byte sent (41 R131). -/
def updateEvents (c : Config) (brt : BitVec 4) (pos : BitVec 2) (seg : List Byte) (ds : List Level) : List Event :=
  burstEvents c.bitDelay [c.cmdData] (ds.take 1)
    ++ burstEvents c.bitDelay ((c.cmdAddr ||| pos.setWidth 8) :: seg) ((ds.drop 1).take (seg.length + 1))
    ++ burstEvents c.bitDelay [c.cmdDisplay ||| brt.setWidth 8] (ds.drop (seg.length + 2))

/-- Byte k of a host word as a number: DATA[8k+7:8k] (20 R56). -/
def data8 (data : Word) (k : Nat) : Nat := data.toNat / 256 ^ k % 256

/-! ### The draws (10 R31) -/

/-- The k-th level the bus environment answers from here on: the one State names, else a free value. -/
def drawAt (s : State) (k : Nat) : Level := (s.acks[k]?).getD (Config.freeLevel s.stream (s.freeCount + k))

/-- The next n levels. -/
def nextDraws (s : State) (n : Nat) : List Level := (List.range n).map (drawAt s)

/-! ### What a command leaves (40, 41) -/

/-- Both lines released: the bus idle state (40 R102). -/
def linesIdle (s : State) : Prop := s.clkDir = .known .input ∧ s.dioDir = .known .input

/-- Where DIO is left after WriteByte with draw a (40 R103, R110). -/
def ackDir : Level → Dir
  | .low => .output
  | .high => .input

/-- s after WriteByte(b) (40 R103): one draw is taken, and nothing else changes. -/
def afterByte (b : Byte) (s : State) : State :=
  { s with
    clkDir := .known .output
    dioDir := .known (ackDir (drawAt s 0))
    lastAck := drawAt s 0
    ackv := true
    acks := s.acks.drop 1
    freeCount := s.freeCount + 1
    trace := s.trace ++ byteEvents s.config.bitDelay b (drawAt s 0) }

/-- s after a burst of the bytes bs (00 R15, 40 R110): the lines are idle, LAST_ACK holds the acknowledgment of the last byte, one
draw is taken for each byte, and nothing else changes. -/
def afterBurst (bs : List Byte) (s : State) : State :=
  { s with
    clkDir := .known .input
    dioDir := .known .input
    lastAck := drawAt s (bs.length - 1)
    ackv := true
    acks := s.acks.drop bs.length
    freeCount := s.freeCount + bs.length
    trace := s.trace ++ burstEvents s.config.bitDelay bs (nextDraws s bs.length) }

/-- s after the display update of seg at pos (41 R131, R134): LAST_ACK holds the acknowledgment of the last byte, the lines are
idle, one draw is taken for each of the seg.length + 3 bytes, and nothing else changes. -/
def afterUpdate (seg : List Byte) (pos : BitVec 2) (s : State) : State :=
  { s with
    clkDir := .known .input
    dioDir := .known .input
    lastAck := drawAt s (seg.length + 2)
    ackv := true
    acks := s.acks.drop (seg.length + 3)
    freeCount := s.freeCount + (seg.length + 3)
    trace := s.trace ++ updateEvents s.config s.brt pos seg (nextDraws s (seg.length + 3)) }

/-! ### The numeral frame, position by position (42) -/

/-- What position i of an L-position frame shows for the magnitude mag in the signed base b, before dots (42 R157 to R161). The
quotient mag / |b|^(L-1-i) is 0 exactly at the positions left of the first significant digit. -/
def shownByte (c : Config) (b : Int) (mag : Nat) (lz : Bool) (L i : Nat) : Byte :=
  if mag = 0 ∧ lz = false then (if i + 1 = L then c.glyph[0] else 0x00#8)
  else if mag / b.natAbs ^ (L - 1 - i) ≠ 0 ∨ lz = true then
    c.glyph[mag / b.natAbs ^ (L - 1 - i) % b.natAbs % 16]'(Nat.mod_lt _ (by decide))
  else if b < 0 ∧ i + 1 < L ∧ mag / b.natAbs ^ (L - 2 - i) ≠ 0 then c.minusGlyph
  else 0x00#8

/-- Whether the dots of position i are injected (42 R163). -/
def dotLit (c : Config) (mag : Nat) (dots : Byte) (lz : Bool) (i : Nat) : Bool :=
  dots.getLsbD (7 - i) && (!(mag == 0 && !lz) || c.dotsInZeroCase)

/-- Position i of the frame, dots included (42 R165). -/
def frameShown (c : Config) (b : Int) (mag : Nat) (dots : Byte) (lz : Bool) (L i : Nat) : Byte :=
  shownByte c b mag lz L i ||| (if dotLit c mag dots lz i then 0x80#8 else 0x00#8)

/-- The digit a segment byte reads as through the inverse of GLYPH, blank counting as 0 (42 R169). -/
def readDigit (c : Config) (g : Byte) : Option Nat :=
  if g = 0x00#8 then some 0 else c.glyph.toList.findIdx? (fun x => x == g)

/-! ### An independent observer of the two lines (00 R13, 10 R32; log 23) -/

/-- What the observer knows: the levels of CLK and DIO, the bits clocked in since an open start condition, and the bursts closed
by a stop condition. -/
structure Observer where
  clk : Level
  dio : Level
  bits : Option (List Bool)
  bursts : List (List Bool)
deriving DecidableEq, Repr

/-- An observer of an idle bus. -/
def Observer.idle : Observer := ⟨.high, .high, none, []⟩

/-- One event. A rise of CLK clocks the level of DIO in; a fall of DIO under a high CLK is a start condition, a rise of DIO under a
high CLK a stop condition (40 R101, R102). A sampled level is the level of the line. -/
def observe (m : Observer) (e : Event) : Observer :=
  match e with
  | .dir .clk .output => { m with clk := .low }
  | .dir .clk .input =>
    if m.clk = .low then { m with clk := .high, bits := m.bits.map (fun l => l ++ [decide (m.dio = .high)]) } else m
  | .dir .dio .output =>
    if m.clk = .high ∧ m.dio = .high then { m with dio := .low, bits := some [] } else { m with dio := .low }
  | .dir .dio .input =>
    if m.clk = .high ∧ m.dio = .low then
      { m with dio := .high, bits := none, bursts := m.bursts ++ m.bits.toList }
    else { m with dio := .high }
  | .rdDio a => { m with dio := a }
  | .wrLow _ => m
  | .dly _ => m

/-- The bytes in a burst: nine clocks each, eight bits least significant first (20 R54) and the acknowledgment clock. What is left
over (the clock of the stop condition) is no byte. -/
def bytesOfBits : List Bool → List Byte
  | b0 :: b1 :: b2 :: b3 :: b4 :: b5 :: b6 :: b7 :: _ :: rest =>
    BitVec.ofBoolListLE [b0, b1, b2, b3, b4, b5, b6, b7] :: bytesOfBits rest
  | _ => []

/-- The bursts an observer of an idle bus receives from a list of events. -/
def received (ev : List Event) : List (List Byte) := (ev.foldl observe Observer.idle).bursts.map bytesOfBits

/-! ### Event counts (70 R244) -/

def isDir : Event → Bool
  | .dir _ _ => true
  | _ => false

def isDly : Event → Bool
  | .dly _ => true
  | _ => false

def isRd : Event → Bool
  | .rdDio _ => true
  | _ => false

def isWr : Event → Bool
  | .wrLow _ => true
  | _ => false

def isLowRd : Event → Bool
  | .rdDio .low => true
  | _ => false

/-- The number of DIR, DLY, RD and WR events, with the DIR events less one for each byte acknowledged low (z of 70 R244). -/
structure Counts where
  dirLessAcks : Int
  dly : Nat
  rd : Nat
  wr : Nat
deriving DecidableEq, Repr

/-- The counts of a list of events. -/
def countsOf (ev : List Event) : Counts :=
  ⟨(ev.countP isDir : Int) - (ev.countP isLowRd : Int), ev.countP isDly, ev.countP isRd, ev.countP isWr⟩

/-- The counts of a display update of L bytes (41 R136, 70 R244). -/
def updateCounts (L : Nat) : Counts := ⟨96 + 28 * L, 96 + 28 * L, L + 3, 0⟩

/-- The table of 70 R244. -/
def commandCounts : Instr → Counts
  | .init => ⟨2, 0, 0, 2⟩
  | .setbr _ _ => ⟨0, 0, 0, 0⟩
  | .encdig _ => ⟨0, 0, 0, 0⟩
  | .bitdly => ⟨0, 1, 0, 0⟩
  | .start => ⟨1, 1, 0, 0⟩
  | .stop => ⟨3, 3, 0, 0⟩
  | .wrbyte _ => ⟨28, 28, 1, 0⟩
  | .wrseg _ len _ => updateCounts len.toNat
  | .showbase _ _ _ _ len _ => updateCounts len.toNat
  | .showdec _ _ _ len _ => updateCounts len.toNat
  | .showhex _ _ _ len _ => updateCounts len.toNat
  | .clear => ⟨208, 208, 7, 0⟩

/-- The least time a list of events takes, in the unit DELAY_UNIT_TIME is given in: delays only (70 R244 to R246; log 19). -/
def minimumTime (ev : List Event) : Nat :=
  (ev.map (fun e => match e with | .dly n => n * Config.delayUnitTime | _ => 0)).sum

/-! ### When a command completes (60 R203 to R207) -/

/-- The commands that drive the pins (60 R206). -/
def needsInit : Instr → Bool
  | .start => true
  | .stop => true
  | .wrbyte _ => true
  | .wrseg _ _ _ => true
  | .showbase _ _ _ _ _ _ => true
  | .showdec _ _ _ _ _ => true
  | .showhex _ _ _ _ _ => true
  | .clear => true
  | .init => false
  | .setbr _ _ => false
  | .encdig _ => false
  | .bitdly => false

/-- The display updates (60 R207). -/
def needsBrightness : Instr → Bool
  | .wrseg _ _ _ => true
  | .showbase _ _ _ _ _ _ => true
  | .showdec _ _ _ _ _ => true
  | .showhex _ _ _ _ _ => true
  | .clear => true
  | .start => false
  | .stop => false
  | .wrbyte _ => false
  | .init => false
  | .setbr _ _ => false
  | .encdig _ => false
  | .bitdly => false

/-- No check of the command fails in s. -/
def completes (i : Instr) (s : State) : Bool :=
  i.wellFormed && (!needsInit i || s.init) && (!needsBrightness i || s.brv)

/-- The start position of a display update (30 R71); 0 for CLEAR (41 R135). -/
def updatePos : Instr → BitVec 2
  | .wrseg pos _ _ => pos
  | .showbase _ _ _ _ _ pos => pos
  | .showdec _ _ _ _ pos => pos
  | .showhex _ _ _ _ pos => pos
  | _ => 0#2

/-- The reserved masks over CMD and DATA, by OP and LEN as numbers (the table of 30 R76). -/
def reservedMasks (op len : Nat) : Nat × Nat :=
  if op = 2 then (0xFFFFC3F0, 0xFFFFFFFF)
  else if op = 5 ∨ op = 10 then (0xFFFFFFF0, 0xFFFFFF00)
  else if op = 6 then (0xFFFFFE00, 0xFFFFFFFF * 2 ^ (8 * len) % 2 ^ 32)
  else if op = 7 then (0x0000FC00, 0xFFFF0000)
  else if op = 8 ∨ op = 9 then (0xFF00FC00, 0xFFFF0000)
  else (0xFFFFFFF0, 0xFFFFFFFF)

/-- signed_8 of a number below 256 (00 R10). -/
def signed8 (n : Nat) : Int := if n < 128 then n else n - 256

/-- The fault a pair of words must raise in s: the list of 60 R210 in its order, each check as its rule R203 to R209 says it, over
the numbers in the fields of 30 R71. -/
def faultOf (cmd data : Word) (s : State) : Option FaultCode :=
  let op := cmd.toNat % 16
  let pos := cmd.toNat / 16 % 4
  let len := cmd.toNat / 64 % 8
  let base := signed8 (cmd.toNat / 2 ^ 24)
  let framed := op = 6 ∨ op = 7 ∨ op = 8 ∨ op = 9
  let masks := reservedMasks op len
  if op = 0 ∨ 13 ≤ op then some .illegalOp
  else if framed ∧ ¬ (1 ≤ len ∧ len ≤ 4) then some .badLength
  else if cmd.toNat &&& masks.1 ≠ 0 ∨ data.toNat &&& masks.2 ≠ 0 then some .reservedField
  else if framed ∧ 4 < pos + len then some .badRange
  else if op = 7 ∧ ¬ (2 ≤ base.natAbs ∧ base.natAbs ≤ 36) then some .badBase
  else if (op = 3 ∨ op = 4 ∨ op = 5 ∨ framed ∨ op = 11) ∧ s.init = false then some .notInitialized
  else if (framed ∨ op = 11) ∧ s.brv = false then some .brightnessUnset
  else none

/-! ### Runs and invariants -/

/-- Run commands one after the other; none when one of them stops. -/
def runAll : List Instr → State → Option State
  | [], s => some s
  | i :: is, s =>
    match exec i s with
    | .next t => runAll is t
    | .fault _ => none
    | .refused _ => none

/-- The direction the events last set for a pin; unknown when none did (10 R23, R24). -/
def lastDir (p : Pin) (ev : List Event) : DirReg :=
  ev.foldl (fun r e => match e with | .dir q d => if q = p then .known d else r | _ => r) .unknown

/-- The level the events sampled last (10 R27). -/
def lastRead (ev : List Event) : Option Level :=
  ev.foldl (fun r e => match e with | .rdDio a => some a | _ => r) none

/-- The state agrees with the trace: the directions are the ones last set (10 R23, R24), ACKV and LAST_ACK are those of the last
sample (10 R27), INIT is set exactly when the latches have been written (43 R191, 70 R242), and every delay is one BIT_DELAY
(60 R215). -/
structure TraceAgrees (s : State) : Prop where
  clk : s.clkDir = lastDir .clk s.trace
  dio : s.dioDir = lastDir .dio s.trace
  ack : lastRead s.trace = if s.ackv then some s.lastAck else none
  init : s.init = s.trace.any isWr
  delays : ∀ n, Event.dly n ∈ s.trace → n = s.config.bitDelay

/-- Once INIT = 1 both directions are written (10 R39). -/
def LinesWritten (s : State) : Prop := s.init = true → s.clkDir ≠ .unknown ∧ s.dioDir ≠ .unknown

/-- FCODE holds 0 or one of the seven codes (60 R202: 8 to 15 are "never written"). -/
def FaultCodeLegal (s : State) : Prop := s.fcode.toNat ≤ 7

/-- The host resets the instance in this step. -/
def resetsNow (s : State) : Prop := ∃ rest, s.requests = .reset :: rest

/-- The host issues (cmd, data) in this step, the configuration is accepted and the engine is not faulted; rest is what the host
does after it. -/
def issuesNow (s : State) (cmd data : Word) (rest : List HostAccess) : Prop :=
  configOk s.config = true ∧ s.fcode = 0#4 ∧ s.dataReg = data ∧ s.requests = .write 0x0#32 cmd :: rest

/-- The events of instance k in a global list, in order. -/
def ofInstance (k : Nat) (g : List (Nat × Event)) : List Event := (g.filter (fun p => p.1 == k)).map (fun p => p.2)

/-- A system's global list of events is possible when, for every instance, its own events are the instance's trace in order: "Their
traces interleave in any order, even within a command" (20 R61). -/
def globalTrace (y : System) (g : List (Nat × Event)) : Prop :=
  ∀ k, ofInstance k g = ((y.instances[k]?).map (fun s => s.trace)).getD []

/-! ### The assembler's operand ranges (30 R82) -/

/-- 0 to hi. -/
def upTo (hi x : Int) : Bool := decide (0 ≤ x) && decide (x ≤ hi)

/-- Every operand of a line is in its range (30 R82), and WRSEG has one to four segment operands (30 R81). -/
def operandsFit : AsmLine → Bool
  | .init => true
  | .setbr level on => upTo 7 level && upTo 1 on
  | .start => true
  | .stop => true
  | .wrbyte b => upTo 255 b
  | .wrseg pos segs => upTo 3 pos && segs.all (upTo 255) && 1 ≤ segs.length && segs.length ≤ 4
  | .showbase base value dots lz len pos =>
    decide (-128 ≤ base) && decide (base ≤ 127) && upTo 65535 value && upTo 255 dots && upTo 1 lz && upTo 7 len && upTo 3 pos
  | .showdec value dots lz len pos =>
    decide (-32768 ≤ value) && decide (value ≤ 32767) && upTo 255 dots && upTo 1 lz && upTo 7 len && upTo 3 pos
  | .showhex value dots lz len pos => upTo 65535 value && upTo 255 dots && upTo 1 lz && upTo 7 len && upTo 3 pos
  | .encdig d => upTo 255 d
  | .clear => true
  | .bitdly => true
  | .dec v => decide (-32768 ≤ v) && decide (v ≤ 32767)
  | .decz v => decide (-32768 ≤ v) && decide (v ≤ 32767)
  | .hex v => upTo 65535 v
  | .hexz v => upTo 65535 v
  | .frame s0 s1 s2 s3 => upTo 255 s0 && upTo 255 s1 && upTo 255 s2 && upTo 255 s3
  | .send b => upTo 255 b

end Sys2Proof.Machine
end

