-- ==== Sys2Proof/Certificates/Slice0/Obligations.lean ====
section
/-! DEFINITION. The statements for the provers. Each docstring names the rule of the spec it formalises, or says that it rests on the
model's own choice. A free value (log 9, 10, 12, 14) is never given a value: the statements hold for every one. -/

open Sys2Proof Sys2Proof.Machine

/-! ### Encoding (spec 30) -/

/-- The worked encodings of 30 R84: each pair decodes to the command of its line, and the assembler makes the pair from the line. -/
def Obligations.WorkedEncodings : Prop :=
  (decode 0x00000001#32 0x00000000#32 = .ok .init ∧ assembleWords .init = some [(0x00000001#32, 0x00000000#32)]) ∧
  (decode 0x00003C02#32 0x00000000#32 = .ok (.setbr 7#3 true) ∧
    assembleWords (.setbr 7 1) = some [(0x00003C02#32, 0x00000000#32)]) ∧
  (decode 0x00001402#32 0x00000000#32 = .ok (.setbr 2#3 true) ∧
    assembleWords (.setbr 2 1) = some [(0x00001402#32, 0x00000000#32)]) ∧
  (decode 0x00000005#32 0x00000040#32 = .ok (.wrbyte 0x40#8) ∧
    assembleWords (.wrbyte 0x40) = some [(0x00000005#32, 0x00000040#32)]) ∧
  (decode 0x00000106#32 0x4F5B063F#32 = .ok (.wrseg 0#2 4#3 0x4F5B063F#32) ∧
    assembleWords (.wrseg 0 [0x3F, 0x06, 0x5B, 0x4F]) = some [(0x00000106#32, 0x4F5B063F#32)]) ∧
  (decode 0x00000108#32 0x0000FFFB#32 = .ok (.showdec 0xFFFB#16 0#8 false 4#3 0#2) ∧
    assembleWords (.showdec (-5) 0 0 4 0) = some [(0x00000108#32, 0x0000FFFB#32)]) ∧
  (decode 0x004002A9#32 0x000000AB#32 = .ok (.showhex 0xAB#16 0x40#8 true 2#3 2#2) ∧
    assembleWords (.showhex 0xAB 0x40 1 2 2) = some [(0x004002A9#32, 0x000000AB#32)]) ∧
  (decode 0xF6000107#32 0x00000005#32 = .ok (.showbase 0xF6#8 5#16 0#8 false 4#3 0#2) ∧
    assembleWords (.showbase (-10) 5 0 0 4 0) = some [(0xF6000107#32, 0x00000005#32)]) ∧
  (decode 0x0000000A#32 0x0000001F#32 = .ok (.encdig 0x1F#8) ∧
    assembleWords (.encdig 31) = some [(0x0000000A#32, 0x0000001F#32)])

/-- Decoding the words of a command gives the command back, for every value of every operand its words can hold (30 R71 to R76). A LEN
of 0 or 5 to 7 is among them: that such a pair decodes, and its check faults, is the model's reading (log 22). -/
def Obligations.DecodeOfEncode : Prop :=
  ∀ i : Instr, i.encodable = true → decode (encode i).1 (encode i).2 = .ok i

/-- Where a pair of words decodes, it is the words of the command it decodes to: each pair has one meaning (30 R70, R74). The pairs that
decode include those with an illegal LEN (log 22). -/
def Obligations.EncodeOfDecode : Prop :=
  ∀ (cmd data : Word) (i : Instr), decode cmd data = .ok i → i.encodable = true ∧ encode i = (cmd, data)

/-- The fields of CMD (30 R71) and the use of DATA (30 R72) as sums of numbers: a pair that decodes has every field of its command at
its place and nothing anywhere else. -/
def Obligations.WordsAreSumsOfFields : Prop :=
  ∀ (cmd data : Word) (i : Instr), decode cmd data = .ok i →
    match i with
    | .init => cmd.toNat = 1 ∧ data.toNat = 0
    | .setbr level on => cmd.toNat = 2 + 1024 * on.toNat + 2048 * level.toNat ∧ data.toNat = 0
    | .start => cmd.toNat = 3 ∧ data.toNat = 0
    | .stop => cmd.toNat = 4 ∧ data.toNat = 0
    | .wrbyte b => cmd.toNat = 5 ∧ data.toNat = b.toNat
    | .wrseg pos len d => cmd.toNat = 6 + 16 * pos.toNat + 64 * len.toNat ∧ data = d ∧ data.toNat < 256 ^ len.toNat
    | .showbase base value dots lz len pos =>
      cmd.toNat = 7 + 16 * pos.toNat + 64 * len.toNat + 512 * lz.toNat + 2 ^ 16 * dots.toNat + 2 ^ 24 * base.toNat ∧
        data.toNat = value.toNat
    | .showdec value dots lz len pos =>
      cmd.toNat = 8 + 16 * pos.toNat + 64 * len.toNat + 512 * lz.toNat + 2 ^ 16 * dots.toNat ∧ data.toNat = value.toNat
    | .showhex value dots lz len pos =>
      cmd.toNat = 9 + 16 * pos.toNat + 64 * len.toNat + 512 * lz.toNat + 2 ^ 16 * dots.toNat ∧ data.toNat = value.toNat
    | .encdig d => cmd.toNat = 10 ∧ data.toNat = d.toNat
    | .clear => cmd.toNat = 11 ∧ data.toNat = 0
    | .bitdly => cmd.toNat = 12 ∧ data.toNat = 0

/-- The assembler makes words exactly from the lines whose operands fit their ranges (30 R82), and every command it makes is one whose
words decode; that a LEN outside 1 to 4 decodes, and its check faults, is the model's reading (log 22). -/
def Obligations.AssemblerRanges : Prop :=
  (∀ l : AsmLine, (assemble l).isSome = operandsFit l) ∧
  (∀ (l : AsmLine) (is : List Instr) (i : Instr), assemble l = some is → i ∈ is → decode (encode i).1 (encode i).2 = .ok i)

/-- The operands of every line that has any are the fields of the command it makes (30 R81, R73): the signed ones as two's complement,
segment operand k as segment byte k; and each pseudo-instruction is its expansion (30 R83). -/
def Obligations.AssembledOperandsAreFields : Prop :=
  (∀ level on : Int, operandsFit (.setbr level on) = true →
    ∃ l o, assemble (.setbr level on) = some [.setbr l o] ∧ (l.toNat : Int) = level ∧ (o.toNat : Int) = on) ∧
  (∀ b : Int, operandsFit (.wrbyte b) = true → ∃ x, assemble (.wrbyte b) = some [.wrbyte x] ∧ (x.toNat : Int) = b) ∧
  (∀ d : Int, operandsFit (.encdig d) = true → ∃ x, assemble (.encdig d) = some [.encdig x] ∧ (x.toNat : Int) = d) ∧
  (∀ (pos : Int) (segs : List Int), operandsFit (.wrseg pos segs) = true →
    ∃ p n d, assemble (.wrseg pos segs) = some [.wrseg p n d] ∧ (p.toNat : Int) = pos ∧ n.toNat = segs.length ∧
      ∀ k x, segs[k]? = some x → (data8 d k : Int) = x) ∧
  (∀ base value dots lz len pos : Int, operandsFit (.showbase base value dots lz len pos) = true →
    ∃ b v d z n p, assemble (.showbase base value dots lz len pos) = some [.showbase b v d z n p] ∧ b.toInt = base ∧
      (v.toNat : Int) = value ∧ (d.toNat : Int) = dots ∧ (z.toNat : Int) = lz ∧ (n.toNat : Int) = len ∧ (p.toNat : Int) = pos) ∧
  (∀ value dots lz len pos : Int, operandsFit (.showdec value dots lz len pos) = true →
    ∃ v d z n p, assemble (.showdec value dots lz len pos) = some [.showdec v d z n p] ∧ v.toInt = value ∧
      (d.toNat : Int) = dots ∧ (z.toNat : Int) = lz ∧ (n.toNat : Int) = len ∧ (p.toNat : Int) = pos) ∧
  (∀ value dots lz len pos : Int, operandsFit (.showhex value dots lz len pos) = true →
    ∃ v d z n p, assemble (.showhex value dots lz len pos) = some [.showhex v d z n p] ∧ (v.toNat : Int) = value ∧
      (d.toNat : Int) = dots ∧ (z.toNat : Int) = lz ∧ (n.toNat : Int) = len ∧ (p.toNat : Int) = pos) ∧
  (∀ v : Int, assemble (.dec v) = assemble (.showdec v 0 0 4 0) ∧ assemble (.decz v) = assemble (.showdec v 0 1 4 0) ∧
    assemble (.hex v) = assemble (.showhex v 0 0 4 0) ∧ assemble (.hexz v) = assemble (.showhex v 0 1 4 0)) ∧
  (∀ s0 s1 s2 s3 : Int, assemble (.frame s0 s1 s2 s3) = assemble (.wrseg 0 [s0, s1, s2, s3])) ∧
  (∀ b : Int, operandsFit (.send b) = true → ∃ x, assemble (.send b) = some [.start, .wrbyte x, .stop] ∧ (x.toNat : Int) = b)

/-! ### The step and its faults (spec 10 R33, 60) -/

/-- A step runs the decoded command: the write of CMD is taken from the host's accesses, and the command runs in the state that is
left. A pair that does not decode raises the decoder's fault, and nothing else changes (10 R33, 60 R201). -/
def Obligations.StepRunsTheDecodedCommand : Prop :=
  ∀ (s : State) (cmd data : Word) (rest : List HostAccess), issuesNow s cmd data rest →
    (∀ i, decode cmd data = .ok i → step s = exec i { s with requests := rest }) ∧
    (∀ c, decode cmd data = .error c → step s = .next { s with requests := rest, fcode := c.code })

/-- Between commands the engine is idle: with no host access pending a step changes nothing (60 R220, 70 R230; the model's reading,
log 1). -/
def Obligations.IdleBetweenCommands : Prop :=
  ∀ s : State, configOk s.config = true → s.requests = [] → step s = .next s

/-- The order of the checks (60 R210) with the conditions of 60 R203 to R209: for any pair of words in any state, the step reports the
first failing check of the list and nothing else happens, and where none fails the command is well formed and completes without a
fault. -/
def Obligations.FirstFailingCheckIsReported : Prop :=
  ∀ (s : State) (cmd data : Word) (rest : List HostAccess), issuesNow s cmd data rest →
    match faultOf cmd data s with
    | some c => step s = .next { s with requests := rest, fcode := c.code }
    | none => ∃ i t, decode cmd data = .ok i ∧ i.wellFormed = true ∧ exec i { s with requests := rest } = .next t ∧
        step s = .next t ∧ t.fcode = 0#4

/-- A pin command before INIT raises NOT_INITIALIZED (60 R206), a display update before SETBR BRIGHTNESS_UNSET (60 R207); INIT, SETBR,
ENCDIG and BITDLY complete in every session state. -/
def Obligations.StateChecks : Prop :=
  ∀ (i : Instr) (s : State), i.wellFormed = true →
    (needsInit i = true → s.init = false → exec i s = .next { s with fcode := 6#4 }) ∧
    (needsBrightness i = true → s.init = true → s.brv = false → exec i s = .next { s with fcode := 7#4 }) ∧
    (needsInit i = false → ∃ t, exec i s = .next t ∧ t.fcode = s.fcode)

/-- Faults are precise (60 R201, R213): a command either leaves FCODE alone, or writes a fault code and changes nothing else at all. -/
def Obligations.FaultsArePrecise : Prop :=
  ∀ (i : Instr) (s t : State), exec i s = .next t →
    t.fcode = s.fcode ∨ ∃ c : FaultCode, t = { s with fcode := c.code }

/-- A command issued while FCODE is not 0 is not accepted: the machine stops (10 R33, 60 R213). -/
def Obligations.FaultedEngineAcceptsNoCommand : Prop :=
  ∀ (s : State) (cmd : Word) (rest : List HostAccess), configOk s.config = true → s.fcode ≠ 0#4 →
    s.requests = .write 0x0#32 cmd :: rest → step s = .fault .notAccepted

/-- FCODE (10 R30): 0 at reset, written only by raising a fault, and once it is not 0 only a reset changes it. -/
def Obligations.OnlyResetClearsFcode : Prop :=
  (∀ c k, (State.create c k).fcode = 0#4) ∧
  ∀ s t : State, step s = .next t →
    t.fcode = s.fcode ∨ (s.fcode = 0#4 ∧ ∃ c : FaultCode, t.fcode = c.code) ∨ (resetsNow s ∧ t.fcode = 0#4)

/-- FCODE never holds a reserved code (60 R202, codes 8 to 15), from any state in which it does not. -/
def Obligations.FaultCodesStayLegal : Prop :=
  ∀ s t : State, FaultCodeLegal s → step s = .next t → FaultCodeLegal t

/-! ### The commands: result, frame and completion in one equation each -/

/-- INIT (43 R191): both latches low, both lines released, INIT set, in every state; nothing else changes. -/
def Obligations.InitReleasesBothLines : Prop :=
  ∀ s : State, exec .init s = .next { s with
    clkDir := .known .input, dioDir := .known .input, init := true,
    trace := s.trace ++ [.wrLow .clk, .wrLow .dio, .dir .clk .input, .dir .dio .input] }

/-- INIT is idempotent but for the trace, which grows by the same four events (43 R192). -/
def Obligations.InitIsIdempotent : Prop :=
  ∀ s t : State, exec .init s = .next t →
    exec .init t = .next { t with trace := t.trace ++ [.wrLow .clk, .wrLow .dio, .dir .clk .input, .dir .dio .input] }

/-- SETBR (43 R193, 10 R26): BRT is ON at bit 3 and LEVEL at bits 2:0, BRV is set, in every state; nothing else changes, no event. -/
def Obligations.SetbrStoresTheNibble : Prop :=
  ∀ (level : BitVec 3) (on : Bool) (s : State),
    exec (.setbr level on) s = .next { s with brt := BitVec.ofNat 4 (8 * on.toNat + level.toNat), brv := true }

/-- BITDLY (40 R100, R106): one DLY(BIT_DELAY) in every state; nothing else changes. -/
def Obligations.BitdlyEmitsOneDelay : Prop :=
  ∀ s : State, exec .bitdly s = .next { s with trace := s.trace ++ [.dly s.config.bitDelay] }

/-- START (40 R101, R107): DIO is driven low, then one delay; CLK is not touched. On the lines this is a start condition exactly when
CLK and DIO are high before it: an observer then begins a new burst, and otherwise keeps what it had (70 R234). The observer is the
model's reading of the lines (log 23). -/
def Obligations.StartDrivesDioLow : Prop :=
  ∀ s : State, s.init = true →
    exec .start s = .next { s with
      dioDir := .known .output, trace := s.trace ++ [.dir .dio .output, .dly s.config.bitDelay] } ∧
    ∀ m : Observer, ([Event.dir .dio .output, .dly s.config.bitDelay].foldl observe m) =
      { m with dio := .low, bits := if m.clk = .high ∧ m.dio = .high then some [] else m.bits }

/-- STOP (40 R102, R108): DIO driven low, CLK released, DIO released, a delay after each; both lines end released. Before the last
direction change CLK is high and DIO is low on the lines, so that change is a stop condition, from any state of the lines. The observer
is the model's reading of the lines (log 23). -/
def Obligations.StopReleasesBothLines : Prop :=
  ∀ s : State, s.init = true →
    exec .stop s = .next { s with
      clkDir := .known .input, dioDir := .known .input,
      trace := s.trace ++ [.dir .dio .output, .dly s.config.bitDelay, .dir .clk .input, .dly s.config.bitDelay,
        .dir .dio .input, .dly s.config.bitDelay] } ∧
    ∀ m : Observer,
      let before := [Event.dir .dio .output, .dly s.config.bitDelay, .dir .clk .input, .dly s.config.bitDelay].foldl observe m
      before.clk = .high ∧ before.dio = .low

/-- WRBYTE (40 R103, R109): the events of WriteByte(b) with the draw, its line directions, LAST_ACK and ACKV; one draw is taken, and
nothing else changes. The events count 28 DIR (one more for a low draw), 28 DLY and 1 RD. -/
def Obligations.WrbyteSendsTheByte : Prop :=
  ∀ (b : Byte) (s : State), s.init = true →
    exec (.wrbyte b) s = .next (afterByte b s) ∧
    ∀ (n : Nat) (a : Level), countsOf (byteEvents n b a) = ⟨28, 28, 1, 0⟩

/-- WRSEG (41 R131, R134): the display update of the LEN bytes of DATA at POS; FRAME and every other field are unchanged. -/
def Obligations.WrsegSendsTheUpdate : Prop :=
  ∀ (pos : BitVec 2) (len : BitVec 3) (data : Word) (s : State),
    (Instr.wrseg pos len data).wellFormed = true → s.init = true → s.brv = true →
    exec (.wrseg pos len data) s =
      .next (afterUpdate ((List.range len.toNat).map (fun k => BitVec.ofNat 8 (data8 data k))) pos s)

/-- CLEAR (41 R135): the display update of four blanks at position 0; nothing else changes. -/
def Obligations.ClearSendsFourBlanks : Prop :=
  ∀ s : State, s.init = true → s.brv = true →
    exec .clear s = .next (afterUpdate [0x00#8, 0x00#8, 0x00#8, 0x00#8] 0#2 s)

/-- ENCDIG (42 R152, R154): RESULT is GLYPH[d mod 16] and RV is set, in every state; nothing else changes, no event. The lookup masks
any natural number to its low four bits. -/
def Obligations.EncdigStoresTheGlyph : Prop :=
  (∀ (d : Byte) (s : State), exec (.encdig d) s =
    .next { s with result := s.config.glyph[d.toNat % 16]'(Nat.mod_lt _ (by decide)), rv := true }) ∧
  ∀ (c : Config) (d : Nat), encodeDigit c d = c.glyph[d % 16]'(Nat.mod_lt _ (by decide)) ∧
    encodeDigit c d = encodeDigit c (d % 16)

/-- SHOWBASE (42 R157 to R163, R166): FRAME[0..LEN-1] is what frameShown says position by position, the display update sends exactly
those bytes, and nothing else changes but FRAME past LEN, about which nothing is said (42 R164), and the model's own counter. -/
def Obligations.ShowbaseShowsTheNumeral : Prop :=
  ∀ (base : BitVec 8) (value : BitVec 16) (dots : Byte) (lz : Bool) (len : BitVec 3) (pos : BitVec 2) (s : State),
    (Instr.showbase base value dots lz len pos).wellFormed = true → s.init = true → s.brv = true →
    ∃ f : Vector Byte 4,
      (∀ (i : Nat) (h : i < 4), i < len.toNat → f[i] = frameShown s.config base.toInt value.toNat dots lz len.toNat i) ∧
      exec (.showbase base value dots lz len pos) s =
        .next (afterUpdate ((List.range len.toNat).map (frameShown s.config base.toInt value.toNat dots lz len.toNat)) pos
          { s with frame := f, freeCount := s.freeCount + 4 })

/-- SHOWDEC (42 R167): as SHOWBASE with base 10, or -10 for a negative value, and the value's magnitude on integers. -/
def Obligations.ShowdecShowsTheNumeral : Prop :=
  ∀ (value : BitVec 16) (dots : Byte) (lz : Bool) (len : BitVec 3) (pos : BitVec 2) (s : State),
    (Instr.showdec value dots lz len pos).wellFormed = true → s.init = true → s.brv = true →
    let b : Int := if value.toInt < 0 then -10 else 10
    ∃ f : Vector Byte 4,
      (∀ (i : Nat) (h : i < 4), i < len.toNat → f[i] = frameShown s.config b value.toInt.natAbs dots lz len.toNat i) ∧
      exec (.showdec value dots lz len pos) s =
        .next (afterUpdate ((List.range len.toNat).map (frameShown s.config b value.toInt.natAbs dots lz len.toNat)) pos
          { s with frame := f, freeCount := s.freeCount + 4 })

/-- SHOWHEX (42 R168): as SHOWBASE with base 16. -/
def Obligations.ShowhexShowsTheNumeral : Prop :=
  ∀ (value : BitVec 16) (dots : Byte) (lz : Bool) (len : BitVec 3) (pos : BitVec 2) (s : State),
    (Instr.showhex value dots lz len pos).wellFormed = true → s.init = true → s.brv = true →
    ∃ f : Vector Byte 4,
      (∀ (i : Nat) (h : i < 4), i < len.toNat → f[i] = frameShown s.config 16 value.toNat dots lz len.toNat i) ∧
      exec (.showhex value dots lz len pos) s =
        .next (afterUpdate ((List.range len.toNat).map (frameShown s.config 16 value.toNat dots lz len.toNat)) pos
          { s with frame := f, freeCount := s.freeCount + 4 })

/-- SHOWDEC and SHOWHEX are SHOWBASE with the base 10 or -10 and 16, in every state and for all operands, faults included
(42 R167, R168; 90 C8). -/
def Obligations.DecimalAndHexAreShowbase : Prop :=
  ∀ (value : BitVec 16) (dots : Byte) (lz : Bool) (len : BitVec 3) (pos : BitVec 2) (s : State),
    exec (.showdec value dots lz len pos) s =
      exec (.showbase (if value.toInt < 0 then 0xF6#8 else 0x0A#8) (BitVec.ofNat 16 value.toInt.natAbs) dots lz len pos) s ∧
    exec (.showhex value dots lz len pos) s = exec (.showbase 0x10#8 value dots lz len pos) s

/-! ### The numeral encoder (spec 42) -/

/-- Round trip (42 R169): for a base 2 to 16, a magnitude below base^4, no dots and four positions, each FRAME byte read back through
the inverse of GLYPH, blank as 0, is the digit of that position, most significant first; for every glyph table with the properties of
42 R170, zeros shown or suppressed. -/
def Obligations.NumeralRoundTrip : Prop :=
  ∀ (base : BitVec 8) (value : BitVec 16) (lz : Bool) (s : State),
    s.init = true → s.brv = true → glyphsOk s.config = true →
    2 ≤ base.toNat → base.toNat ≤ 16 → value.toNat < base.toNat ^ 4 →
    ∃ t, exec (.showbase base value 0x00#8 lz 4#3 0#2) s = .next t ∧
      ∀ (i : Nat) (h : i < 4), readDigit s.config t.frame[i] = some (value.toNat / base.toNat ^ (3 - i) % base.toNat)

/-- The minus sign (42 R160, 70 R243): it is shown at most once, and exactly when the base is negative, zeros are suppressed, the
magnitude is not zero and leaves a position free; for a table that tells minus, blank and digits apart. -/
def Obligations.MinusShownWhenThereIsRoom : Prop :=
  ∀ (c : Config) (b : Int) (mag : Nat) (lz : Bool) (n : Nat),
    glyphsOk c = true → c.minusGlyph ≠ 0x00#8 → 2 ≤ b.natAbs → 1 ≤ n → n ≤ 4 →
    (numeralBytes c b mag 0x00#8 lz n).count c.minusGlyph =
      if b < 0 ∧ lz = false ∧ mag ≠ 0 ∧ mag < b.natAbs ^ (n - 1) then 1 else 0

/-- Overflow of the frame (42 R162): a magnitude of base^LEN or more shows the digits of the remainder, zeros included, and nothing
tells the two commands apart. -/
def Obligations.OverflowDropsHighDigits : Prop :=
  ∀ (base : BitVec 8) (value : BitVec 16) (dots : Byte) (lz : Bool) (len : BitVec 3) (pos : BitVec 2) (s : State),
    base.toInt.natAbs ^ len.toNat ≤ value.toNat →
    exec (.showbase base value dots lz len pos) s =
      exec (.showbase base (BitVec.ofNat 16 (value.toNat % base.toInt.natAbs ^ len.toNat)) dots true len pos) s

/-- The default glyph table (42 R170): 16 distinct entries, none 0x00 or 0x40, and bit 7 clear in each (42 R151). -/
def Obligations.DefaultGlyphsAreDistinct : Prop :=
  Config.defaultGlyph.toList.Nodup ∧
  (∀ g ∈ Config.defaultGlyph.toList, g ≠ 0x00#8 ∧ g ≠ 0x40#8 ∧ g.getLsbD 7 = false) ∧ glyphsOk Config.initial = true

/-! ### The bus (spec 40, 41, 70) -/

/-- A display update as an observer of the two lines receives it (41 R132, 20 R54, R55): exactly three bursts, the data command, the
address command with the segment bytes, the display-control command, whatever LEN is and whatever is acknowledged; the bus ends idle.
The observer is the model's reading of the lines (log 23); it takes the bus to be idle before the command, also where the engine left
a burst open (70 R240). -/
def Obligations.ObserverReceivesThreeBursts : Prop :=
  ∀ (i : Instr) (s : State), needsBrightness i = true → completes i s = true →
    ∃ (t : State) (ev : List Event) (seg : List Byte),
      exec i s = .next t ∧ t.trace = s.trace ++ ev ∧ linesIdle t ∧
      received ev = updateBytes s.config s.brt (updatePos i) seg ∧
      match i with
      | .wrseg _ len data => seg = (List.range len.toNat).map (fun k => BitVec.ofNat 8 (data8 data k))
      | .showbase _ _ _ _ len _ => seg = t.frame.toList.take len.toNat
      | .showdec _ _ _ len _ => seg = t.frame.toList.take len.toNat
      | .showhex _ _ _ len _ => seg = t.frame.toList.take len.toNat
      | _ => seg = [0x00#8, 0x00#8, 0x00#8, 0x00#8]

/-- A raw burst START, any number of WRBYTE, STOP is received as exactly its bytes and ends idle, whatever is acknowledged
(40 R110, 20 R54). The observer is the model's reading of the lines (log 23); it takes the bus to be idle before the burst, also where
the engine left one open (70 R240). -/
def Obligations.ObserverReceivesRawBurst : Prop :=
  ∀ (bs : List Byte) (s : State), s.init = true →
    ∃ (t : State) (ev : List Event),
      runAll (.start :: bs.map Instr.wrbyte ++ [.stop]) s = some t ∧ t.trace = s.trace ++ ev ∧
      received ev = [bs] ∧ linesIdle t

/-- The acknowledgments change no outcome (40 R105, 60 R211): with any other draws the command answers the same next state, but for the
draws left, LAST_ACK, the direction DIO is left in and the trace, and the trace has the same number of delays. -/
def Obligations.AcknowledgmentsChangeNoOutcome : Prop :=
  ∀ (i : Instr) (s : State) (draws : List Level), ∃ t u,
    exec i s = .next t ∧ exec i { s with acks := draws } = .next u ∧
    u = { t with acks := u.acks, lastAck := u.lastAck, dioDir := u.dioDir, trace := u.trace } ∧
    u.trace.countP isDly = t.trace.countP isDly ∧ u.trace.countP isRd = t.trace.countP isRd

/-- Brightness (41 R133, 70 R238): SETBR emits nothing, and the next display update's third burst carries the new nibble, as the model's
observer receives it, which takes the bus to be idle before the update (log 23). -/
def Obligations.BrightnessShowsAtTheNextUpdate : Prop :=
  ∀ (level : BitVec 3) (on : Bool) (s : State) (i : Instr), needsBrightness i = true → i.wellFormed = true → s.init = true →
    ∃ (t u : State) (ev : List Event),
      exec (.setbr level on) s = .next t ∧ t.trace = s.trace ∧
      exec i t = .next u ∧ u.trace = t.trace ++ ev ∧
      (received ev)[2]? = some [s.config.cmdDisplay ||| BitVec.ofNat 8 (8 * on.toNat + level.toNat)]

/-- The event counts of each command and its minimum time (the table of 70 R244). -/
def Obligations.EventCounts : Prop :=
  ∀ (i : Instr) (s : State), completes i s = true →
    ∃ (t : State) (ev : List Event), exec i s = .next t ∧ t.trace = s.trace ++ ev ∧ countsOf ev = commandCounts i ∧
      minimumTime ev = (commandCounts i).dly * s.config.bitDelay * Config.delayUnitTime

/-- Every command ends, after a bounded number of events (70 R247). -/
def Obligations.EveryCommandEndsBounded : Prop :=
  ∀ (i : Instr) (s : State), ∃ (t : State) (ev : List Event), exec i s = .next t ∧ t.trace = s.trace ++ ev ∧
    ev.countP isDir ≤ 215 ∧ ev.countP isDly ≤ 208 ∧ ev.countP isRd ≤ 7 ∧ ev.countP isWr ≤ 2

/-- No command other than INIT emits a WR event (70 R242). -/
def Obligations.OnlyInitWritesLatches : Prop :=
  ∀ (i : Instr) (s t : State) (ev : List Event), exec i s = .next t → t.trace = s.trace ++ ev → i ≠ .init →
    ∀ e ∈ ev, isWr e = false

/-- The trace (10 R37): empty at reset, appended to by each primitive, never rewritten but by a reset, and read back by no command: with
another trace a command appends the same events and does all else the same. -/
def Obligations.TraceIsOnlyAppended : Prop :=
  (∀ c k, (State.create c k).trace = []) ∧
  (∀ (s : State) (p : Pin) (d : Dir), (setDir p d s).trace = s.trace ++ [.dir p d] ∧
    (writePinLow p s).trace = s.trace ++ [.wrLow p] ∧ (bitDelay s).trace = s.trace ++ [.dly s.config.bitDelay] ∧
    (sampleDio s).trace = s.trace ++ [.rdDio (nextLevel s)]) ∧
  (∀ (i : Instr) (s t : State), exec i s = .next t → ∃ ev, t.trace = s.trace ++ ev ∧
    ∀ tr : List Event, exec i { s with trace := tr } = .next { t with trace := tr ++ ev }) ∧
  (∀ s t : State, step s = .next t → ¬ resetsNow s → ∃ ev, t.trace = s.trace ++ ev)

/-! ### Invariants (spec 10) -/

/-- Every step keeps the state in agreement with the trace: line directions, LAST_ACK and ACKV, INIT, and the delays (10 R23, R24, R27,
60 R215, 70 R242), from every state that agrees. -/
def Obligations.StepKeepsTraceAgreement : Prop :=
  ∀ s t : State, TraceAgrees s → step s = .next t → TraceAgrees t

/-- The state right after reset agrees with its (empty) trace, for every configuration. -/
def Obligations.ResetAgreesWithTrace : Prop :=
  (∀ c k, TraceAgrees (State.create c k)) ∧ TraceAgrees State.reset

/-- Once INIT = 1 both line directions are written (10 R39), kept by every step; and INIT = 0 right after reset. -/
def Obligations.LinesWrittenOnceInitialized : Prop :=
  (∀ c k, LinesWritten (State.create c k)) ∧ ∀ s t : State, LinesWritten s → step s = .next t → LinesWritten t

/-- INIT (10 R25): 0 at reset, set by the command INIT, and cleared by no command, only by a reset. -/
def Obligations.OnlyResetClearsInit : Prop :=
  (∀ c k, (State.create c k).init = false) ∧
  (∀ s t : State, exec .init s = .next t → t.init = true) ∧
  (∀ (i : Instr) (s t : State), exec i s = .next t → s.init = true → t.init = true) ∧
  (∀ s t : State, step s = .next t → s.init = true → t.init = true ∨ resetsNow s)

/-- The configuration of an instance never changes (10 R22). -/
def Obligations.ConfigurationNeverChanges : Prop :=
  ∀ s t : State, step s = .next t → t.config = s.config

/-- The configurations the step accepts (00 R9, 10 R22, 92 D5): it refuses exactly when CMD_ADDR[1:0] or CMD_DISPLAY[3:0] is not 0, the
two pins are one, or the glyph table repeats an entry or holds 0x00, MINUS_GLYPH or an entry with bit 7 set. That these are all is the
model's reading (log 8). Where it accepts, the address and display-control bytes are sums as well as bitwise ORs. -/
def Obligations.BadConfigurationIsRefused : Prop :=
  (∀ s : State, step s = .refused .badConfiguration ↔
    (s.config.cmdAddr.toNat % 4 ≠ 0 ∨ s.config.cmdDisplay.toNat % 16 ≠ 0 ∨ s.config.clkPin = s.config.dioPin ∨
      (∃ i j : Fin 16, i ≠ j ∧ s.config.glyph[i] = s.config.glyph[j]) ∨
      ∃ i : Fin 16, s.config.glyph[i] = 0x00#8 ∨ s.config.glyph[i] = s.config.minusGlyph ∨ 128 ≤ s.config.glyph[i].toNat)) ∧
  ∀ (c : Config) (pos : BitVec 2) (brt : BitVec 4), configOk c = true →
    (addressByte c pos).toNat = c.cmdAddr.toNat + pos.toNat ∧ (displayByte c brt).toNat = c.cmdDisplay.toNat + brt.toNat

/-! ### Reset and the host's words (spec 10, 20, 70) -/

/-- The state right after reset (10 R38, 70 R230), for every configuration: what the table gives a value; what it leaves UNSPECIFIED is
not named here. -/
def Obligations.ResetTable : Prop :=
  State.reset = State.create Config.initial 0 ∧
  ∀ c k, (State.create c k).config = c ∧ (State.create c k).clkDir = .unknown ∧ (State.create c k).dioDir = .unknown ∧
    (State.create c k).init = false ∧ (State.create c k).brv = false ∧ (State.create c k).ackv = false ∧
    (State.create c k).rv = false ∧ (State.create c k).fcode = 0#4 ∧ (State.create c k).trace = []

/-- A reset by the host is the creation of the instance with its configuration (70 R230), also from a faulted state (60 R213). That the
host's accesses, the draws and the model's own fields stay is the model's choice (log 15). So is the rest of the equation beside the
values 10 R38 gives: BRT, LAST_ACK, FRAME and RESULT, UNSPECIFIED there, take the same constants at every reset of one instance (log 4),
and DATA, of which 20 R51 says only that the last one written is used, falls back to its constant (log 6, 15). -/
def Obligations.HostResetCreatesTheInstance : Prop :=
  ∀ (s : State) (rest : List HostAccess), configOk s.config = true → s.requests = .reset :: rest →
    step s = .next { State.create s.config s.stream with
      requests := rest, acks := s.acks, reads := s.reads, freeCount := s.freeCount }

/-- STATUS (10 R34): the read has no side effect but on the host's accesses and the model's own fields, and the word has each bit at its
place; bit 3 is LAST_ACK while ACKV = 1, and nothing is said of it while ACKV = 0. -/
def Obligations.StatusLayout : Prop :=
  ∀ (s : State) (rest : List HostAccess), configOk s.config = true → s.requests = .read 0x8#32 :: rest →
    ∃ (w : Word) (u : Option ValidReg),
      step s = .next { s with requests := rest, reads := s.reads ++ [⟨0x8#32, some w, u⟩], freeCount := s.freeCount + 1 } ∧
      w.getLsbD 0 = s.init ∧ w.getLsbD 1 = s.brv ∧ w.getLsbD 2 = s.ackv ∧
      (s.ackv = true → w.getLsbD 3 = decide (s.lastAck = .high)) ∧ w.getLsbD 4 = s.rv ∧
      w.toNat / 32 % 8 = 0 ∧ w.toNat / 256 % 16 = s.fcode.toNat ∧ w.toNat < 2 ^ 12

/-- RESULT, BRT and LAST_ACK as the host reads them (10 R35): RESULT and BRT zero-extended once written, and a fault of the observation
without a word before; the same fault for LAST_ACK, a bit of STATUS, exactly while ACKV = 0. Reads of STATUS, RESULT and BRT have no
side effect on the engine. That the machine goes on after a read of an unwritten register, and the form in which an observation and its
fault are recorded, are the model's choice (log 13). That a read of CMD (0x0) or DATA (0x4), which 20 R51 lists for writing only, goes
on, leaves the engine alone and finds nothing unwritten is the model's choice too (log 14). -/
def Obligations.UnwrittenReadsAreObservationFaults : Prop :=
  ∀ (s : State) (offset : Word) (rest : List HostAccess), configOk s.config = true → s.requests = .read offset :: rest →
    ∃ o : Observation,
      step s = .next { s with requests := rest, reads := s.reads ++ [⟨offset, o⟩], freeCount := s.freeCount + 1 } ∧
      (offset = 0xC#32 → o = if s.rv then ⟨some (s.result.setWidth 32), none⟩ else ⟨none, some .result⟩) ∧
      (offset = 0x10#32 → o = if s.brv then ⟨some (s.brt.setWidth 32), none⟩ else ⟨none, some .brt⟩) ∧
      (offset = 0x8#32 → o.word.isSome = true ∧ o.unwritten = if s.ackv then none else some .lastAck) ∧
      (offset ≠ 0xC#32 → offset ≠ 0x10#32 → offset ≠ 0x8#32 → o.unwritten = none)

/-- The other offsets (20 R51): an offset not listed reads as 0; a write to it is ignored, and so, by the model's reading (log 14), is a
write to a read-only word; a write of DATA is kept for the next command. -/
def Obligations.OtherOffsets : Prop :=
  ∀ (s : State) (offset value : Word) (rest : List HostAccess), configOk s.config = true →
    (s.requests = .read offset :: rest →
      offset.toNat ≠ 0x0 → offset.toNat ≠ 0x4 → offset.toNat ≠ 0x8 → offset.toNat ≠ 0xC → offset.toNat ≠ 0x10 →
      step s = .next { s with
        requests := rest, reads := s.reads ++ [⟨offset, some 0#32, none⟩], freeCount := s.freeCount + 1 }) ∧
    (s.requests = .write offset value :: rest → offset.toNat ≠ 0x0 → offset.toNat ≠ 0x4 →
      step s = .next { s with requests := rest }) ∧
    (s.requests = .write 0x4#32 value :: rest → step s = .next { s with requests := rest, dataReg := value })

/-- A command uses the DATA written last (20 R51): after the host writes DATA, the write of CMD issues the pair of the two. -/
def Obligations.CommandUsesTheLastData : Prop :=
  ∀ (s : State) (cmd data : Word) (rest : List HostAccess), configOk s.config = true → s.fcode = 0#4 →
    s.requests = .write 0x4#32 data :: .write 0x0#32 cmd :: rest →
    ∃ t, step s = .next t ∧ issuesNow t cmd data rest ∧ t = { s with dataReg := data, requests := .write 0x0#32 cmd :: rest }

/-! ### Several instances (spec 60, 20 R61) -/

/-- Instances share nothing (60 R219): a step of one leaves every other as it was, and does to its own what the step does. A system as a
list of which one instance steps at a time is the model's choice (log 18). -/
def Obligations.OtherInstancesAreUntouched : Prop :=
  ∀ (k : Nat) (y z : System), systemStep k y = .next z →
    (∀ j, j ≠ k → z.instances[j]? = y.instances[j]?) ∧
    (∀ s, y.instances[k]? = some s → ∃ t, step s = .next t ∧ z.instances[k]? = some t)

/-- A system is built exactly from accepted configurations no two of which share a pin of one port (60 R218), and each instance starts
right after its own reset, numbered in order (log 11, 18). -/
def Obligations.SharedPinsAreRefused : Prop :=
  ∀ (cs : List Config),
    ((∃ y, buildSystem cs = .ok y) ↔
      (∀ c ∈ cs, configOk c = true) ∧
      cs.Pairwise (fun a b => a.port = b.port →
        a.clkPin ≠ b.clkPin ∧ a.clkPin ≠ b.dioPin ∧ a.dioPin ≠ b.clkPin ∧ a.dioPin ≠ b.dioPin)) ∧
    ∀ y, buildSystem cs = .ok y →
      y.instances.length = cs.length ∧ ∀ k c, cs[k]? = some c → y.instances[k]? = some (State.create c k)

/-- Instances interleave in any order (20 R61): a step of one and then a step of another reach the same system in the other order; and,
unless one of the two is reset, the events the two steps add can be mixed in any way, also event by event, behind any possible global
list of events. What a global list is, is the model's reading (log 18). -/
def Obligations.StepsOfInstancesCommute : Prop :=
  ∀ (j k : Nat) (y y1 z : System), j ≠ k → systemStep j y = .next y1 → systemStep k y1 = .next z →
    (∃ y2, systemStep k y = .next y2 ∧ systemStep j y2 = .next z) ∧
    ((∀ i s, i = j ∨ i = k → y.instances[i]? = some s → ¬ resetsNow s) →
      ∃ ej ek : List Event, ∀ g mixed : List (Nat × Event), globalTrace y g →
        (∀ p ∈ mixed, p.1 = j ∨ p.1 = k) → ofInstance j mixed = ej → ofInstance k mixed = ek → globalTrace z (g ++ mixed))
end

