-- ==== Sys2Proof/Laws/State.lean ====
section
/-! SUPPORT. One lemma per field per update of the state: what each shared operation writes and what it leaves alone. -/

namespace Sys2Proof.Machine

@[simp] theorem emit_config (e : Event) (s : State) : (emit e s).config = s.config := rfl
@[simp] theorem emit_clkDir (e : Event) (s : State) : (emit e s).clkDir = s.clkDir := rfl
@[simp] theorem emit_dioDir (e : Event) (s : State) : (emit e s).dioDir = s.dioDir := rfl
@[simp] theorem emit_init (e : Event) (s : State) : (emit e s).init = s.init := rfl
@[simp] theorem emit_brt (e : Event) (s : State) : (emit e s).brt = s.brt := rfl
@[simp] theorem emit_brv (e : Event) (s : State) : (emit e s).brv = s.brv := rfl
@[simp] theorem emit_lastAck (e : Event) (s : State) : (emit e s).lastAck = s.lastAck := rfl
@[simp] theorem emit_ackv (e : Event) (s : State) : (emit e s).ackv = s.ackv := rfl
@[simp] theorem emit_frame (e : Event) (s : State) : (emit e s).frame = s.frame := rfl
@[simp] theorem emit_result (e : Event) (s : State) : (emit e s).result = s.result := rfl
@[simp] theorem emit_rv (e : Event) (s : State) : (emit e s).rv = s.rv := rfl
@[simp] theorem emit_fcode (e : Event) (s : State) : (emit e s).fcode = s.fcode := rfl
@[simp] theorem emit_trace (e : Event) (s : State) : (emit e s).trace = s.trace ++ [e] := rfl
@[simp] theorem emit_dataReg (e : Event) (s : State) : (emit e s).dataReg = s.dataReg := rfl
@[simp] theorem emit_requests (e : Event) (s : State) : (emit e s).requests = s.requests := rfl
@[simp] theorem emit_acks (e : Event) (s : State) : (emit e s).acks = s.acks := rfl
@[simp] theorem emit_reads (e : Event) (s : State) : (emit e s).reads = s.reads := rfl
@[simp] theorem emit_freeCount (e : Event) (s : State) : (emit e s).freeCount = s.freeCount := rfl
@[simp] theorem emit_stream (e : Event) (s : State) : (emit e s).stream = s.stream := rfl

@[simp] theorem setDir_clk_config (d : Dir) (s : State) : (setDir .clk d s).config = s.config := rfl
@[simp] theorem setDir_clk_clkDir (d : Dir) (s : State) : (setDir .clk d s).clkDir = .known d := rfl
@[simp] theorem setDir_clk_dioDir (d : Dir) (s : State) : (setDir .clk d s).dioDir = s.dioDir := rfl
@[simp] theorem setDir_clk_init (d : Dir) (s : State) : (setDir .clk d s).init = s.init := rfl
@[simp] theorem setDir_clk_brt (d : Dir) (s : State) : (setDir .clk d s).brt = s.brt := rfl
@[simp] theorem setDir_clk_brv (d : Dir) (s : State) : (setDir .clk d s).brv = s.brv := rfl
@[simp] theorem setDir_clk_lastAck (d : Dir) (s : State) : (setDir .clk d s).lastAck = s.lastAck := rfl
@[simp] theorem setDir_clk_ackv (d : Dir) (s : State) : (setDir .clk d s).ackv = s.ackv := rfl
@[simp] theorem setDir_clk_frame (d : Dir) (s : State) : (setDir .clk d s).frame = s.frame := rfl
@[simp] theorem setDir_clk_result (d : Dir) (s : State) : (setDir .clk d s).result = s.result := rfl
@[simp] theorem setDir_clk_rv (d : Dir) (s : State) : (setDir .clk d s).rv = s.rv := rfl
@[simp] theorem setDir_clk_fcode (d : Dir) (s : State) : (setDir .clk d s).fcode = s.fcode := rfl
@[simp] theorem setDir_clk_trace (d : Dir) (s : State) : (setDir .clk d s).trace = s.trace ++ [.dir .clk d] := rfl
@[simp] theorem setDir_clk_dataReg (d : Dir) (s : State) : (setDir .clk d s).dataReg = s.dataReg := rfl
@[simp] theorem setDir_clk_requests (d : Dir) (s : State) : (setDir .clk d s).requests = s.requests := rfl
@[simp] theorem setDir_clk_acks (d : Dir) (s : State) : (setDir .clk d s).acks = s.acks := rfl
@[simp] theorem setDir_clk_reads (d : Dir) (s : State) : (setDir .clk d s).reads = s.reads := rfl
@[simp] theorem setDir_clk_freeCount (d : Dir) (s : State) : (setDir .clk d s).freeCount = s.freeCount := rfl
@[simp] theorem setDir_clk_stream (d : Dir) (s : State) : (setDir .clk d s).stream = s.stream := rfl

@[simp] theorem setDir_dio_config (d : Dir) (s : State) : (setDir .dio d s).config = s.config := rfl
@[simp] theorem setDir_dio_clkDir (d : Dir) (s : State) : (setDir .dio d s).clkDir = s.clkDir := rfl
@[simp] theorem setDir_dio_dioDir (d : Dir) (s : State) : (setDir .dio d s).dioDir = .known d := rfl
@[simp] theorem setDir_dio_init (d : Dir) (s : State) : (setDir .dio d s).init = s.init := rfl
@[simp] theorem setDir_dio_brt (d : Dir) (s : State) : (setDir .dio d s).brt = s.brt := rfl
@[simp] theorem setDir_dio_brv (d : Dir) (s : State) : (setDir .dio d s).brv = s.brv := rfl
@[simp] theorem setDir_dio_lastAck (d : Dir) (s : State) : (setDir .dio d s).lastAck = s.lastAck := rfl
@[simp] theorem setDir_dio_ackv (d : Dir) (s : State) : (setDir .dio d s).ackv = s.ackv := rfl
@[simp] theorem setDir_dio_frame (d : Dir) (s : State) : (setDir .dio d s).frame = s.frame := rfl
@[simp] theorem setDir_dio_result (d : Dir) (s : State) : (setDir .dio d s).result = s.result := rfl
@[simp] theorem setDir_dio_rv (d : Dir) (s : State) : (setDir .dio d s).rv = s.rv := rfl
@[simp] theorem setDir_dio_fcode (d : Dir) (s : State) : (setDir .dio d s).fcode = s.fcode := rfl
@[simp] theorem setDir_dio_trace (d : Dir) (s : State) : (setDir .dio d s).trace = s.trace ++ [.dir .dio d] := rfl
@[simp] theorem setDir_dio_dataReg (d : Dir) (s : State) : (setDir .dio d s).dataReg = s.dataReg := rfl
@[simp] theorem setDir_dio_requests (d : Dir) (s : State) : (setDir .dio d s).requests = s.requests := rfl
@[simp] theorem setDir_dio_acks (d : Dir) (s : State) : (setDir .dio d s).acks = s.acks := rfl
@[simp] theorem setDir_dio_reads (d : Dir) (s : State) : (setDir .dio d s).reads = s.reads := rfl
@[simp] theorem setDir_dio_freeCount (d : Dir) (s : State) : (setDir .dio d s).freeCount = s.freeCount := rfl
@[simp] theorem setDir_dio_stream (d : Dir) (s : State) : (setDir .dio d s).stream = s.stream := rfl

@[simp] theorem writePinLow_config (p : Pin) (s : State) : (writePinLow p s).config = s.config := rfl
@[simp] theorem writePinLow_clkDir (p : Pin) (s : State) : (writePinLow p s).clkDir = s.clkDir := rfl
@[simp] theorem writePinLow_dioDir (p : Pin) (s : State) : (writePinLow p s).dioDir = s.dioDir := rfl
@[simp] theorem writePinLow_init (p : Pin) (s : State) : (writePinLow p s).init = s.init := rfl
@[simp] theorem writePinLow_brt (p : Pin) (s : State) : (writePinLow p s).brt = s.brt := rfl
@[simp] theorem writePinLow_brv (p : Pin) (s : State) : (writePinLow p s).brv = s.brv := rfl
@[simp] theorem writePinLow_lastAck (p : Pin) (s : State) : (writePinLow p s).lastAck = s.lastAck := rfl
@[simp] theorem writePinLow_ackv (p : Pin) (s : State) : (writePinLow p s).ackv = s.ackv := rfl
@[simp] theorem writePinLow_frame (p : Pin) (s : State) : (writePinLow p s).frame = s.frame := rfl
@[simp] theorem writePinLow_result (p : Pin) (s : State) : (writePinLow p s).result = s.result := rfl
@[simp] theorem writePinLow_rv (p : Pin) (s : State) : (writePinLow p s).rv = s.rv := rfl
@[simp] theorem writePinLow_fcode (p : Pin) (s : State) : (writePinLow p s).fcode = s.fcode := rfl
@[simp] theorem writePinLow_trace (p : Pin) (s : State) : (writePinLow p s).trace = s.trace ++ [.wrLow p] := rfl
@[simp] theorem writePinLow_dataReg (p : Pin) (s : State) : (writePinLow p s).dataReg = s.dataReg := rfl
@[simp] theorem writePinLow_requests (p : Pin) (s : State) : (writePinLow p s).requests = s.requests := rfl
@[simp] theorem writePinLow_acks (p : Pin) (s : State) : (writePinLow p s).acks = s.acks := rfl
@[simp] theorem writePinLow_reads (p : Pin) (s : State) : (writePinLow p s).reads = s.reads := rfl
@[simp] theorem writePinLow_freeCount (p : Pin) (s : State) : (writePinLow p s).freeCount = s.freeCount := rfl
@[simp] theorem writePinLow_stream (p : Pin) (s : State) : (writePinLow p s).stream = s.stream := rfl

@[simp] theorem bitDelay_config (s : State) : (bitDelay s).config = s.config := rfl
@[simp] theorem bitDelay_clkDir (s : State) : (bitDelay s).clkDir = s.clkDir := rfl
@[simp] theorem bitDelay_dioDir (s : State) : (bitDelay s).dioDir = s.dioDir := rfl
@[simp] theorem bitDelay_init (s : State) : (bitDelay s).init = s.init := rfl
@[simp] theorem bitDelay_brt (s : State) : (bitDelay s).brt = s.brt := rfl
@[simp] theorem bitDelay_brv (s : State) : (bitDelay s).brv = s.brv := rfl
@[simp] theorem bitDelay_lastAck (s : State) : (bitDelay s).lastAck = s.lastAck := rfl
@[simp] theorem bitDelay_ackv (s : State) : (bitDelay s).ackv = s.ackv := rfl
@[simp] theorem bitDelay_frame (s : State) : (bitDelay s).frame = s.frame := rfl
@[simp] theorem bitDelay_result (s : State) : (bitDelay s).result = s.result := rfl
@[simp] theorem bitDelay_rv (s : State) : (bitDelay s).rv = s.rv := rfl
@[simp] theorem bitDelay_fcode (s : State) : (bitDelay s).fcode = s.fcode := rfl
@[simp] theorem bitDelay_trace (s : State) : (bitDelay s).trace = s.trace ++ [.dly s.config.bitDelay] := rfl
@[simp] theorem bitDelay_dataReg (s : State) : (bitDelay s).dataReg = s.dataReg := rfl
@[simp] theorem bitDelay_requests (s : State) : (bitDelay s).requests = s.requests := rfl
@[simp] theorem bitDelay_acks (s : State) : (bitDelay s).acks = s.acks := rfl
@[simp] theorem bitDelay_reads (s : State) : (bitDelay s).reads = s.reads := rfl
@[simp] theorem bitDelay_freeCount (s : State) : (bitDelay s).freeCount = s.freeCount := rfl
@[simp] theorem bitDelay_stream (s : State) : (bitDelay s).stream = s.stream := rfl

@[simp] theorem sampleDio_config (s : State) : (sampleDio s).config = s.config := rfl
@[simp] theorem sampleDio_clkDir (s : State) : (sampleDio s).clkDir = s.clkDir := rfl
@[simp] theorem sampleDio_dioDir (s : State) : (sampleDio s).dioDir = s.dioDir := rfl
@[simp] theorem sampleDio_init (s : State) : (sampleDio s).init = s.init := rfl
@[simp] theorem sampleDio_brt (s : State) : (sampleDio s).brt = s.brt := rfl
@[simp] theorem sampleDio_brv (s : State) : (sampleDio s).brv = s.brv := rfl
@[simp] theorem sampleDio_lastAck (s : State) : (sampleDio s).lastAck = s.lastAck := rfl
@[simp] theorem sampleDio_ackv (s : State) : (sampleDio s).ackv = s.ackv := rfl
@[simp] theorem sampleDio_frame (s : State) : (sampleDio s).frame = s.frame := rfl
@[simp] theorem sampleDio_result (s : State) : (sampleDio s).result = s.result := rfl
@[simp] theorem sampleDio_rv (s : State) : (sampleDio s).rv = s.rv := rfl
@[simp] theorem sampleDio_fcode (s : State) : (sampleDio s).fcode = s.fcode := rfl
@[simp] theorem sampleDio_trace (s : State) : (sampleDio s).trace = s.trace ++ [.rdDio (nextLevel s)] := rfl
@[simp] theorem sampleDio_dataReg (s : State) : (sampleDio s).dataReg = s.dataReg := rfl
@[simp] theorem sampleDio_requests (s : State) : (sampleDio s).requests = s.requests := rfl
@[simp] theorem sampleDio_acks (s : State) : (sampleDio s).acks = s.acks.tail := rfl
@[simp] theorem sampleDio_reads (s : State) : (sampleDio s).reads = s.reads := rfl
@[simp] theorem sampleDio_freeCount (s : State) : (sampleDio s).freeCount = s.freeCount + 1 := rfl
@[simp] theorem sampleDio_stream (s : State) : (sampleDio s).stream = s.stream := rfl

@[simp] theorem raiseFault_config (c : FaultCode) (s : State) : (raiseFault c s).config = s.config := rfl
@[simp] theorem raiseFault_clkDir (c : FaultCode) (s : State) : (raiseFault c s).clkDir = s.clkDir := rfl
@[simp] theorem raiseFault_dioDir (c : FaultCode) (s : State) : (raiseFault c s).dioDir = s.dioDir := rfl
@[simp] theorem raiseFault_init (c : FaultCode) (s : State) : (raiseFault c s).init = s.init := rfl
@[simp] theorem raiseFault_brt (c : FaultCode) (s : State) : (raiseFault c s).brt = s.brt := rfl
@[simp] theorem raiseFault_brv (c : FaultCode) (s : State) : (raiseFault c s).brv = s.brv := rfl
@[simp] theorem raiseFault_lastAck (c : FaultCode) (s : State) : (raiseFault c s).lastAck = s.lastAck := rfl
@[simp] theorem raiseFault_ackv (c : FaultCode) (s : State) : (raiseFault c s).ackv = s.ackv := rfl
@[simp] theorem raiseFault_frame (c : FaultCode) (s : State) : (raiseFault c s).frame = s.frame := rfl
@[simp] theorem raiseFault_result (c : FaultCode) (s : State) : (raiseFault c s).result = s.result := rfl
@[simp] theorem raiseFault_rv (c : FaultCode) (s : State) : (raiseFault c s).rv = s.rv := rfl
@[simp] theorem raiseFault_fcode (c : FaultCode) (s : State) : (raiseFault c s).fcode = c.code := rfl
@[simp] theorem raiseFault_trace (c : FaultCode) (s : State) : (raiseFault c s).trace = s.trace := rfl
@[simp] theorem raiseFault_dataReg (c : FaultCode) (s : State) : (raiseFault c s).dataReg = s.dataReg := rfl
@[simp] theorem raiseFault_requests (c : FaultCode) (s : State) : (raiseFault c s).requests = s.requests := rfl
@[simp] theorem raiseFault_acks (c : FaultCode) (s : State) : (raiseFault c s).acks = s.acks := rfl
@[simp] theorem raiseFault_reads (c : FaultCode) (s : State) : (raiseFault c s).reads = s.reads := rfl
@[simp] theorem raiseFault_freeCount (c : FaultCode) (s : State) : (raiseFault c s).freeCount = s.freeCount := rfl
@[simp] theorem raiseFault_stream (c : FaultCode) (s : State) : (raiseFault c s).stream = s.stream := rfl

@[simp] theorem setAck_config (a : Level) (s : State) : (setAck a s).config = s.config := rfl
@[simp] theorem setAck_clkDir (a : Level) (s : State) : (setAck a s).clkDir = s.clkDir := rfl
@[simp] theorem setAck_dioDir (a : Level) (s : State) : (setAck a s).dioDir = s.dioDir := rfl
@[simp] theorem setAck_init (a : Level) (s : State) : (setAck a s).init = s.init := rfl
@[simp] theorem setAck_brt (a : Level) (s : State) : (setAck a s).brt = s.brt := rfl
@[simp] theorem setAck_brv (a : Level) (s : State) : (setAck a s).brv = s.brv := rfl
@[simp] theorem setAck_lastAck (a : Level) (s : State) : (setAck a s).lastAck = a := rfl
@[simp] theorem setAck_ackv (a : Level) (s : State) : (setAck a s).ackv = true := rfl
@[simp] theorem setAck_frame (a : Level) (s : State) : (setAck a s).frame = s.frame := rfl
@[simp] theorem setAck_result (a : Level) (s : State) : (setAck a s).result = s.result := rfl
@[simp] theorem setAck_rv (a : Level) (s : State) : (setAck a s).rv = s.rv := rfl
@[simp] theorem setAck_fcode (a : Level) (s : State) : (setAck a s).fcode = s.fcode := rfl
@[simp] theorem setAck_trace (a : Level) (s : State) : (setAck a s).trace = s.trace := rfl
@[simp] theorem setAck_dataReg (a : Level) (s : State) : (setAck a s).dataReg = s.dataReg := rfl
@[simp] theorem setAck_requests (a : Level) (s : State) : (setAck a s).requests = s.requests := rfl
@[simp] theorem setAck_acks (a : Level) (s : State) : (setAck a s).acks = s.acks := rfl
@[simp] theorem setAck_reads (a : Level) (s : State) : (setAck a s).reads = s.reads := rfl
@[simp] theorem setAck_freeCount (a : Level) (s : State) : (setAck a s).freeCount = s.freeCount := rfl
@[simp] theorem setAck_stream (a : Level) (s : State) : (setAck a s).stream = s.stream := rfl

@[simp] theorem setBrightness_config (b : BitVec 4) (s : State) : (setBrightness b s).config = s.config := rfl
@[simp] theorem setBrightness_clkDir (b : BitVec 4) (s : State) : (setBrightness b s).clkDir = s.clkDir := rfl
@[simp] theorem setBrightness_dioDir (b : BitVec 4) (s : State) : (setBrightness b s).dioDir = s.dioDir := rfl
@[simp] theorem setBrightness_init (b : BitVec 4) (s : State) : (setBrightness b s).init = s.init := rfl
@[simp] theorem setBrightness_brt (b : BitVec 4) (s : State) : (setBrightness b s).brt = b := rfl
@[simp] theorem setBrightness_brv (b : BitVec 4) (s : State) : (setBrightness b s).brv = true := rfl
@[simp] theorem setBrightness_lastAck (b : BitVec 4) (s : State) : (setBrightness b s).lastAck = s.lastAck := rfl
@[simp] theorem setBrightness_ackv (b : BitVec 4) (s : State) : (setBrightness b s).ackv = s.ackv := rfl
@[simp] theorem setBrightness_frame (b : BitVec 4) (s : State) : (setBrightness b s).frame = s.frame := rfl
@[simp] theorem setBrightness_result (b : BitVec 4) (s : State) : (setBrightness b s).result = s.result := rfl
@[simp] theorem setBrightness_rv (b : BitVec 4) (s : State) : (setBrightness b s).rv = s.rv := rfl
@[simp] theorem setBrightness_fcode (b : BitVec 4) (s : State) : (setBrightness b s).fcode = s.fcode := rfl
@[simp] theorem setBrightness_trace (b : BitVec 4) (s : State) : (setBrightness b s).trace = s.trace := rfl
@[simp] theorem setBrightness_dataReg (b : BitVec 4) (s : State) : (setBrightness b s).dataReg = s.dataReg := rfl
@[simp] theorem setBrightness_requests (b : BitVec 4) (s : State) : (setBrightness b s).requests = s.requests := rfl
@[simp] theorem setBrightness_acks (b : BitVec 4) (s : State) : (setBrightness b s).acks = s.acks := rfl
@[simp] theorem setBrightness_reads (b : BitVec 4) (s : State) : (setBrightness b s).reads = s.reads := rfl
@[simp] theorem setBrightness_freeCount (b : BitVec 4) (s : State) : (setBrightness b s).freeCount = s.freeCount := rfl
@[simp] theorem setBrightness_stream (b : BitVec 4) (s : State) : (setBrightness b s).stream = s.stream := rfl

@[simp] theorem setResult_config (g : Byte) (s : State) : (setResult g s).config = s.config := rfl
@[simp] theorem setResult_clkDir (g : Byte) (s : State) : (setResult g s).clkDir = s.clkDir := rfl
@[simp] theorem setResult_dioDir (g : Byte) (s : State) : (setResult g s).dioDir = s.dioDir := rfl
@[simp] theorem setResult_init (g : Byte) (s : State) : (setResult g s).init = s.init := rfl
@[simp] theorem setResult_brt (g : Byte) (s : State) : (setResult g s).brt = s.brt := rfl
@[simp] theorem setResult_brv (g : Byte) (s : State) : (setResult g s).brv = s.brv := rfl
@[simp] theorem setResult_lastAck (g : Byte) (s : State) : (setResult g s).lastAck = s.lastAck := rfl
@[simp] theorem setResult_ackv (g : Byte) (s : State) : (setResult g s).ackv = s.ackv := rfl
@[simp] theorem setResult_frame (g : Byte) (s : State) : (setResult g s).frame = s.frame := rfl
@[simp] theorem setResult_result (g : Byte) (s : State) : (setResult g s).result = g := rfl
@[simp] theorem setResult_rv (g : Byte) (s : State) : (setResult g s).rv = true := rfl
@[simp] theorem setResult_fcode (g : Byte) (s : State) : (setResult g s).fcode = s.fcode := rfl
@[simp] theorem setResult_trace (g : Byte) (s : State) : (setResult g s).trace = s.trace := rfl
@[simp] theorem setResult_dataReg (g : Byte) (s : State) : (setResult g s).dataReg = s.dataReg := rfl
@[simp] theorem setResult_requests (g : Byte) (s : State) : (setResult g s).requests = s.requests := rfl
@[simp] theorem setResult_acks (g : Byte) (s : State) : (setResult g s).acks = s.acks := rfl
@[simp] theorem setResult_reads (g : Byte) (s : State) : (setResult g s).reads = s.reads := rfl
@[simp] theorem setResult_freeCount (g : Byte) (s : State) : (setResult g s).freeCount = s.freeCount := rfl
@[simp] theorem setResult_stream (g : Byte) (s : State) : (setResult g s).stream = s.stream := rfl

@[simp] theorem setFrame_config (seg : List Byte) (s : State) : (setFrame seg s).config = s.config := rfl
@[simp] theorem setFrame_clkDir (seg : List Byte) (s : State) : (setFrame seg s).clkDir = s.clkDir := rfl
@[simp] theorem setFrame_dioDir (seg : List Byte) (s : State) : (setFrame seg s).dioDir = s.dioDir := rfl
@[simp] theorem setFrame_init (seg : List Byte) (s : State) : (setFrame seg s).init = s.init := rfl
@[simp] theorem setFrame_brt (seg : List Byte) (s : State) : (setFrame seg s).brt = s.brt := rfl
@[simp] theorem setFrame_brv (seg : List Byte) (s : State) : (setFrame seg s).brv = s.brv := rfl
@[simp] theorem setFrame_lastAck (seg : List Byte) (s : State) : (setFrame seg s).lastAck = s.lastAck := rfl
@[simp] theorem setFrame_ackv (seg : List Byte) (s : State) : (setFrame seg s).ackv = s.ackv := rfl
@[simp] theorem setFrame_frame (seg : List Byte) (s : State) : (setFrame seg s).frame = #v[frameByte seg s.stream s.freeCount 0, frameByte seg s.stream s.freeCount 1, frameByte seg s.stream s.freeCount 2, frameByte seg s.stream s.freeCount 3] := rfl
@[simp] theorem setFrame_result (seg : List Byte) (s : State) : (setFrame seg s).result = s.result := rfl
@[simp] theorem setFrame_rv (seg : List Byte) (s : State) : (setFrame seg s).rv = s.rv := rfl
@[simp] theorem setFrame_fcode (seg : List Byte) (s : State) : (setFrame seg s).fcode = s.fcode := rfl
@[simp] theorem setFrame_trace (seg : List Byte) (s : State) : (setFrame seg s).trace = s.trace := rfl
@[simp] theorem setFrame_dataReg (seg : List Byte) (s : State) : (setFrame seg s).dataReg = s.dataReg := rfl
@[simp] theorem setFrame_requests (seg : List Byte) (s : State) : (setFrame seg s).requests = s.requests := rfl
@[simp] theorem setFrame_acks (seg : List Byte) (s : State) : (setFrame seg s).acks = s.acks := rfl
@[simp] theorem setFrame_reads (seg : List Byte) (s : State) : (setFrame seg s).reads = s.reads := rfl
@[simp] theorem setFrame_freeCount (seg : List Byte) (s : State) : (setFrame seg s).freeCount = s.freeCount + 4 := rfl
@[simp] theorem setFrame_stream (seg : List Byte) (s : State) : (setFrame seg s).stream = s.stream := rfl

@[simp] theorem resetInstance_config (s : State) : (resetInstance s).config = s.config := rfl
@[simp] theorem resetInstance_clkDir (s : State) : (resetInstance s).clkDir = .unknown := rfl
@[simp] theorem resetInstance_dioDir (s : State) : (resetInstance s).dioDir = .unknown := rfl
@[simp] theorem resetInstance_init (s : State) : (resetInstance s).init = false := rfl
@[simp] theorem resetInstance_brt (s : State) : (resetInstance s).brt = Config.resetBrt s.stream := rfl
@[simp] theorem resetInstance_brv (s : State) : (resetInstance s).brv = false := rfl
@[simp] theorem resetInstance_lastAck (s : State) : (resetInstance s).lastAck = Config.resetLastAck s.stream := rfl
@[simp] theorem resetInstance_ackv (s : State) : (resetInstance s).ackv = false := rfl
@[simp] theorem resetInstance_frame (s : State) : (resetInstance s).frame = (State.create s.config s.stream).frame := rfl
@[simp] theorem resetInstance_result (s : State) : (resetInstance s).result = Config.resetResult s.stream := rfl
@[simp] theorem resetInstance_rv (s : State) : (resetInstance s).rv = false := rfl
@[simp] theorem resetInstance_fcode (s : State) : (resetInstance s).fcode = 0#4 := rfl
@[simp] theorem resetInstance_trace (s : State) : (resetInstance s).trace = [] := rfl
@[simp] theorem resetInstance_dataReg (s : State) : (resetInstance s).dataReg = Config.resetData s.stream := rfl
@[simp] theorem resetInstance_requests (s : State) : (resetInstance s).requests = s.requests := rfl
@[simp] theorem resetInstance_acks (s : State) : (resetInstance s).acks = s.acks := rfl
@[simp] theorem resetInstance_reads (s : State) : (resetInstance s).reads = s.reads := rfl
@[simp] theorem resetInstance_freeCount (s : State) : (resetInstance s).freeCount = s.freeCount := rfl
@[simp] theorem resetInstance_stream (s : State) : (resetInstance s).stream = s.stream := rfl

end Sys2Proof.Machine
end

