-- ==== Sys2Proof/Laws/Procedures.lean ====
section
/-! SUPPORT. What each procedure of spec 40 and 41 does, said once: the state it leaves, as one equation with no procedure in it. -/

namespace Sys2Proof.Machine

theorem startProc_eq (s : State) :
    startProc s = { s with dioDir := .known .output, trace := s.trace ++ startEvents s.config.bitDelay } := by
  simp [startProc, setDir, setDirReg, bitDelay, emit, startEvents]

theorem stopProc_eq (s : State) :
    stopProc s = { s with
      clkDir := .known .input, dioDir := .known .input, trace := s.trace ++ stopEvents s.config.bitDelay } := by
  simp [stopProc, setDir, setDirReg, bitDelay, emit, stopEvents]

theorem sendBit_eq (v : Bool) (s : State) :
    sendBit v s = { s with
      clkDir := .known .input, dioDir := .known (bitDir v), trace := s.trace ++ bitEvents s.config.bitDelay v } := by
  simp [sendBit, setDir, setDirReg, bitDelay, emit, bitEvents, bitDir]

theorem sendBits_eq (b : Byte) (s : State) :
    sendBits b s = { s with
      clkDir := .known .input, dioDir := .known (bitDir (b.getLsbD 7)),
      trace := s.trace ++ (List.range 8).flatMap (fun i => bitEvents s.config.bitDelay (b.getLsbD i)) } := by
  simp [sendBits, bitsOf, List.range, List.range.loop, sendBit_eq]

theorem ackClock_eq (s : State) :
    ackClock s = { s with
      clkDir := .known .input, dioDir := .known .input,
      trace := s.trace ++ [.dir .clk .output, .dir .dio .input, .dly s.config.bitDelay, .dir .clk .input, .dly s.config.bitDelay] } := by
  simp [ackClock, setDir, setDirReg, bitDelay, emit]

theorem ackHold_eq (a : Level) (s : State) (h : s.dioDir = .known .input) :
    ackHold a s = { s with
      clkDir := .known .output, dioDir := .known (ackDir a),
      trace := s.trace ++ (holdEvents a ++ [.dly s.config.bitDelay, .dir .clk .output, .dly s.config.bitDelay]) } := by
  cases a <;> simp [ackHold, setDir, setDirReg, bitDelay, emit, ackDir, holdEvents, ← h]

theorem nextLevel_eq (s : State) : nextLevel s = drawAt s 0 := by
  unfold nextLevel drawAt
  cases s.acks <;> simp

theorem writeByte_eq (b : Byte) (s : State) : writeByte b s = (drawAt s 0, afterByte b s) := by
  simp only [writeByte, sendBits_eq, ackClock_eq, nextLevel_eq]
  have : ∀ t : State, sampleDio t = { t with
    acks := t.acks.drop 1, freeCount := t.freeCount + 1, trace := t.trace ++ [.rdDio (drawAt t 0)] } := by
    intro t; simp [sampleDio, emit, takeDraw, nextLevel_eq]
  rw [this, ackHold_eq _ _ rfl]
  simp [setAck, afterByte, byteEvents, drawAt]

theorem drawAt_afterByte (b : Byte) (s : State) (k : Nat) : drawAt (afterByte b s) k = drawAt s (k + 1) := by
  simp [drawAt, afterByte, Nat.add_assoc, Nat.add_comm 1 k]

theorem nextDraws_succ (s : State) (n : Nat) (b : Byte) :
    nextDraws s (n + 1) = drawAt s 0 :: nextDraws (afterByte b s) n := by
  simp [nextDraws, List.range_succ_eq_map, Function.comp_def, drawAt_afterByte]

/-- WriteByte for each byte of a list that is not empty: one draw a byte, LAST_ACK from the last one. -/
theorem sendBytes_eq (b : Byte) (bs : List Byte) (s : State) :
    (b :: bs).foldl (fun t x => sendByte x t) s = { s with
      clkDir := .known .output
      dioDir := .known (ackDir (drawAt s bs.length))
      lastAck := drawAt s bs.length
      ackv := true
      acks := s.acks.drop (bs.length + 1)
      freeCount := s.freeCount + (bs.length + 1)
      trace := s.trace ++ bytesEvents s.config.bitDelay (b :: bs) (nextDraws s (bs.length + 1)) } := by
  induction bs generalizing b s with
  | nil => simp [sendByte, writeByte_eq, afterByte, bytesEvents, nextDraws]
  | cons c cs ih =>
    rw [List.foldl_cons, ih c (sendByte b s), sendByte, writeByte_eq]
    simp only [drawAt_afterByte, nextDraws_succ s (cs.length + 1) b, List.length_cons]
    simp [afterByte, bytesEvents, Nat.add_comm 1, Nat.add_assoc]

/-- The draws depend on the environment's fields alone. -/
theorem nextDraws_congr (s t : State) (n : Nat) (ha : t.acks = s.acks) (hf : t.freeCount = s.freeCount)
    (hk : t.stream = s.stream) :
    nextDraws t n = nextDraws s n := by
  simp [nextDraws, drawAt, ha, hf, hk]

/-- A burst of at least one byte (40 R110). -/
theorem burst_eq (b : Byte) (bs : List Byte) (s : State) : burst (b :: bs) s = afterBurst (b :: bs) s := by
  have h := nextDraws_congr s (startProc s) (bs.length + 1) (by rw [startProc_eq]) (by rw [startProc_eq]) (by rw [startProc_eq])
  simp only [burst, sendBytes_eq, stopProc_eq, h]
  simp [afterBurst, burstEvents, startProc_eq, drawAt]

theorem nextDraws_take (s : State) (n m : Nat) (h : n ≤ m) : (nextDraws s m).take n = nextDraws s n := by
  simp [nextDraws, ← List.map_take, List.take_range, Nat.min_eq_left h]

/-- The draws after k of them are taken. -/
theorem nextDraws_drop (s t : State) (k n : Nat) (ha : t.acks = s.acks.drop k) (hf : t.freeCount = s.freeCount + k)
    (hk : t.stream = s.stream) :
    nextDraws t n = (nextDraws s (k + n)).drop k := by
  apply List.ext_getElem
  · simp [nextDraws]
  · intro i h1 h2
    simp [nextDraws, drawAt, ha, hf, hk, Nat.add_assoc]

theorem addressByte_eq (c : Config) (pos : BitVec 2) : addressByte c pos = c.cmdAddr ||| pos.setWidth 8 := by
  rw [addressByte, BitVec.setWidth_eq_append (by decide)]; rfl

theorem displayByte_eq (c : Config) (brt : BitVec 4) : displayByte c brt = c.cmdDisplay ||| brt.setWidth 8 := by
  rw [displayByte, BitVec.setWidth_eq_append (by decide)]; rfl

theorem drawAt_afterBurst (bs : List Byte) (s : State) (k : Nat) :
    drawAt (afterBurst bs s) k = drawAt s (bs.length + k) := by
  simp [drawAt, afterBurst, Nat.add_assoc]

theorem nextDraws_afterBurst (bs : List Byte) (s : State) (n : Nat) :
    nextDraws (afterBurst bs s) n = (nextDraws s (bs.length + n)).drop bs.length :=
  nextDraws_drop s _ bs.length n rfl rfl rfl

theorem afterBurst_trace (bs : List Byte) (s : State) :
    (afterBurst bs s).trace = s.trace ++ burstEvents s.config.bitDelay bs (nextDraws s bs.length) := rfl

/-- The display update (41 R131): three bursts in a row. -/
theorem writeFrame_eq (seg : List Byte) (pos : BitVec 2) (s : State) : writeFrame seg pos s = afterUpdate seg pos s := by
  simp only [writeFrame, burst_eq, addressByte_eq, displayByte_eq]
  generalize hs1 : afterBurst [s.config.cmdData] s = s1
  generalize hs2 : afterBurst ((s1.config.cmdAddr ||| pos.setWidth 8) :: seg) s1 = s2
  have hc1 : s1.config = s.config := by rw [← hs1]; rfl
  have hc2 : s2.config = s.config := by rw [← hs2, ← hc1]; rfl
  have hb2 : s2.brt = s.brt := by rw [← hs2, ← hs1]; rfl
  have e2 : 1 + (1 + seg.length) = 2 + seg.length := by omega
  have e3 : 1 + (2 + seg.length) = 3 + seg.length := by omega
  have e4 : s.freeCount + 1 + (1 + seg.length) = s.freeCount + (2 + seg.length) := by omega
  have e5 : 1 + (s.freeCount + (2 + seg.length)) = s.freeCount + (3 + seg.length) := by omega
  have ht : (afterBurst [s2.config.cmdDisplay ||| s2.brt.setWidth 8] s2).trace = (afterUpdate seg pos s).trace := by
    rw [afterBurst_trace, hc2, hb2, ← hs2, afterBurst_trace, nextDraws_afterBurst, ← hs1, nextDraws_afterBurst, afterBurst_trace,
      nextDraws_afterBurst]
    simp only [afterUpdate, updateEvents, List.length_cons, List.length_nil]
    rw [← nextDraws_take s 1 (seg.length + 3) (by omega), ← nextDraws_take s (1 + (seg.length + 1)) (seg.length + 3) (by omega)]
    simp [afterBurst, List.drop_take, Nat.add_comm, e2, e3]
  have hl : (afterBurst [s2.config.cmdDisplay ||| s2.brt.setWidth 8] s2).lastAck = (afterUpdate seg pos s).lastAck := by
    simp [afterBurst, afterUpdate, ← hs2, ← hs1, drawAt, Nat.add_comm, e2, e4]
  have ha : (afterBurst [s2.config.cmdDisplay ||| s2.brt.setWidth 8] s2).acks = (afterUpdate seg pos s).acks := by
    simp [afterBurst, afterUpdate, ← hs2, ← hs1, Nat.add_comm, e2, e3]
  have hf : (afterBurst [s2.config.cmdDisplay ||| s2.brt.setWidth 8] s2).freeCount = (afterUpdate seg pos s).freeCount := by
    simp [afterBurst, afterUpdate, ← hs2, ← hs1, Nat.add_comm, e4, e5]
  calc afterBurst [s2.config.cmdDisplay ||| s2.brt.setWidth 8] s2
      = { afterUpdate seg pos s with
          trace := (afterBurst [s2.config.cmdDisplay ||| s2.brt.setWidth 8] s2).trace
          lastAck := (afterBurst [s2.config.cmdDisplay ||| s2.brt.setWidth 8] s2).lastAck
          acks := (afterBurst [s2.config.cmdDisplay ||| s2.brt.setWidth 8] s2).acks
          freeCount := (afterBurst [s2.config.cmdDisplay ||| s2.brt.setWidth 8] s2).freeCount } := by rw [← hs2, ← hs1]; rfl
    _ = afterUpdate seg pos s := by rw [ht, hl, ha, hf]

end Sys2Proof.Machine
end

