-- ==== Sys2Proof/Laws/Numeral.lean ====
section
/-! SUPPORT. The numeral encoder of spec 42: the loop's bytes position by position, and the SHOW commands' shared effect. -/

namespace Sys2Proof.Machine

theorem digitLoop_length (c : Config) (base : Nat) (lz : Bool) (n v : Nat) (neg : Bool) :
    (digitLoop c base lz n v neg).length = n := by
  induction n generalizing v neg with
  | zero => rfl
  | succ n ih => unfold digitLoop; split_ifs <;> simp [ih]

theorem injectDots_length (m : Byte) (l : List Byte) : (injectDots m l).length = l.length := by
  induction l generalizing m with
  | nil => rfl
  | cons f fs ih => simp [injectDots, ih]

theorem numeralBytes_length (c : Config) (b : Int) (mag : Nat) (dots : Byte) (lz : Bool) (L : Nat) (h : 1 ≤ L) :
    (numeralBytes c b mag dots lz L).length = L := by
  have hz : (zeroDigits c L).length = L := by simp [zeroDigits]; omega
  unfold numeralBytes
  split_ifs <;> simp [injectDots_length, digitLoop_length, hz]

/-- Once the running value is 0 and the sign is placed, the rest is blank, or zeros when zeros are shown (42 R159). -/
theorem digitLoop_zero (c : Config) (base : Nat) (lz : Bool) (n i : Nat) (h : i < n) :
    (digitLoop c base lz n 0 false)[i]? = some (if lz then encodeDigit c 0 else blankByte) := by
  induction n with
  | zero => omega
  | succ n ih =>
    cases lz <;> simp [digitLoop, List.getElem?_append, digitLoop_length] <;> split_ifs with hi
    all_goals first | simpa using ih hi | (have : i = n := by omega); simp [this]

/-- The zero-suppressed frame position by position (42 R157). -/
theorem zeroDigits_get (c : Config) (L i : Nat) (h : i < L) :
    (zeroDigits c L)[i]? = some (if i + 1 = L then encodeDigit c 0 else blankByte) := by
  simp only [zeroDigits, List.getElem?_append, List.length_replicate, List.getElem?_replicate]
  split_ifs with h1 h2 h3 <;> try omega
  · rfl
  · simp [show i - (L - 1) = 0 by omega]

/-- Dot injection position by position (42 R163). -/
theorem injectDots_get (m : Byte) (l : List Byte) (i : Nat) (h : i < 8) :
    (injectDots m l)[i]? = (l[i]?).map (fun f => f ||| (if m.getLsbD (7 - i) then 0x80#8 else 0x00#8)) := by
  induction l generalizing m i with
  | nil => simp [injectDots]
  | cons f fs ih =>
    have h7 : m &&& 0x80#8 = if m.getLsbD 7 then 0x80#8 else 0x00#8 := by
      apply BitVec.eq_of_getLsbD_eq
      intro j hj
      rw [BitVec.getLsbD_and]
      split_ifs with hm
      all_goals interval_cases j <;> simp_all
    cases i with
    | zero => simp [injectDots, h7]
    | succ i =>
      simp only [injectDots, List.getElem?_cons_succ, ih (m <<< 1) i (by omega)]
      congr 1
      funext g
      rw [BitVec.getLsbD_shiftLeft, show 7 - (i + 1) = 7 - i - 1 by omega]
      simp [show 7 - i < 8 by omega, show ¬ 7 - i < 1 by omega]

/-- The digit loop position by position (42 R158 to R161): a digit where the running value is not 0 yet or zeros are shown, the minus
sign at the first position past the digits, blanks left of it. -/
theorem digitLoop_get (c : Config) (base : Nat) (lz : Bool) (n v : Nat) (neg : Bool) (i : Nat) (h : i < n) :
    (digitLoop c base lz n v neg)[i]? = some (
      if v / base ^ (n - 1 - i) ≠ 0 ∨ lz = true then encodeDigit c (v / base ^ (n - 1 - i) % base)
      else if neg = true ∧ (i + 1 = n ∨ v / base ^ (n - 2 - i) ≠ 0) then c.minusGlyph
      else blankByte) := by
  induction n generalizing v neg with
  | zero => omega
  | succ n ih =>
    have htest : (v % base = 0 ∧ v / base = 0 ∧ lz = false) ↔ (v = 0 ∧ lz = false) := by
      constructor
      · rintro ⟨h1, h2, h3⟩
        have := Nat.div_add_mod v base
        rw [h1, h2] at this
        exact ⟨by simpa using this.symm, h3⟩
      · rintro ⟨rfl, h3⟩
        simp [h3]
    unfold digitLoop
    rw [if_congr htest rfl rfl]
    by_cases hi : i = n
    · subst hi
      simp only [Nat.add_sub_cancel, Nat.sub_self, pow_zero, Nat.div_one]
      split_ifs <;> simp_all [digitLoop_length]
    · have hin : i < n := by omega
      have hpow : v / base / base ^ (n - 1 - i) = v / base ^ (n + 1 - 1 - i) := by
        rw [Nat.div_div_eq_div_mul, ← pow_succ', show n - 1 - i + 1 = n + 1 - 1 - i by omega]
      by_cases hv : v = 0 ∧ lz = false
      · obtain ⟨rfl, rfl⟩ := hv
        have hblank : (digitLoop c base false n 0 false)[i]? = some blankByte := digitLoop_zero c base false n i hin
        have happ (x : Byte) : (digitLoop c base false n 0 false ++ [x])[i]? = some blankByte := by
          rw [List.getElem?_append_left (by simpa [digitLoop_length] using hin), hblank]
        cases neg <;> simp [hi, happ]
      · rw [if_neg hv, List.getElem?_append_left (by simpa [digitLoop_length] using hin), ih (v / base) neg hin, hpow]
        cases lz with
        | true => simp
        | false =>
          have hv0 : v ≠ 0 := by simpa using hv
          have hrun : (i + 1 = n ∨ v / base / base ^ (n - 2 - i) ≠ 0) ↔ (i + 1 = n + 1 ∨ v / base ^ (n + 1 - 2 - i) ≠ 0) := by
            rcases Nat.lt_or_ge (i + 1) n with hlt | hge
            · rw [Nat.div_div_eq_div_mul, ← pow_succ', show n - 2 - i + 1 = n + 1 - 2 - i by omega]
              simp [show i + 1 ≠ n by omega, show i ≠ n by omega]
            · have hn : i + 1 = n := by omega
              simp [hn, hv0]
          simp only [hrun]

/-- The whole encoder position by position (42 R165): the bytes of Safety.frameShown. -/
theorem numeralBytes_get (c : Config) (b : Int) (mag : Nat) (dots : Byte) (lz : Bool) (L i : Nat) (h : i < L) (h8 : i < 8) :
    (numeralBytes c b mag dots lz L)[i]? = some (frameShown c b mag dots lz L i) := by
  have hdigits : (if zeroCase mag lz then zeroDigits c L else digitLoop c b.natAbs lz L mag (decide (b < 0)))[i]? =
      some (shownByte c b mag lz L i) := by
    unfold zeroCase shownByte
    by_cases hz : mag = 0 ∧ lz = false
    · simp [hz, zeroDigits_get c L i h, encodeDigit, blankByte]
    · rw [if_neg (by simpa using hz), if_neg hz, digitLoop_get c _ lz L mag _ i h]
      by_cases hq : mag / b.natAbs ^ (L - 1 - i) ≠ 0 ∨ lz = true
      · rw [if_pos hq, if_pos hq]; rfl
      · rw [if_neg hq, if_neg hq]
        have hlast : i + 1 = L → mag / b.natAbs ^ (L - 1 - i) ≠ 0 := by
          intro hi
          have hm : mag ≠ 0 := fun hm => hz ⟨hm, by simpa using fun hl => hq (.inr hl)⟩
          simpa [show L - 1 - i = 0 by omega] using hm
        have : (i + 1 = L ∨ mag / b.natAbs ^ (L - 2 - i) ≠ 0) ↔ (i + 1 < L ∧ mag / b.natAbs ^ (L - 2 - i) ≠ 0) := by
          constructor
          · rintro (hi | hn)
            · exact absurd (.inl (hlast hi)) hq
            · refine ⟨?_, hn⟩
              by_contra hi
              exact hq (.inl (hlast (by omega)))
          · exact fun hn => .inr hn.2
        simp only [this, decide_eq_true_eq, blankByte]
  unfold numeralBytes frameShown dotLit
  dsimp only
  by_cases hd : dots ≠ 0#8 ∧ (zeroCase mag lz = false ∨ c.dotsInZeroCase = true)
  · rw [if_pos hd, injectDots_get _ _ _ h8, hdigits]
    have : (!(mag == 0 && !lz) || c.dotsInZeroCase) = true := by
      rcases hd.2 with hz | hz
      · simp only [zeroCase] at hz; simp [hz]
      · simp [hz]
    simp only [this, Bool.and_true, Option.map_some]
  · rw [if_neg hd, hdigits]
    have : (dots.getLsbD (7 - i) && (!(mag == 0 && !lz) || c.dotsInZeroCase)) = false := by
      by_cases h0 : dots = 0#8
      · simp [h0]
      · have hz : ¬ (zeroCase mag lz = false ∨ c.dotsInZeroCase = true) := fun hz => hd ⟨h0, hz⟩
        simp only [zeroCase, not_or, Bool.not_eq_true] at hz
        simp [hz.2, show (mag == 0 && !lz) = true by simpa using hz.1]
    simp only [this]
    simp

end Sys2Proof.Machine
end

