-- ==== Sys2Proof/Laws/Exec.lean ====
section
/-! SUPPORT. What a command, a host access and a step can do, said once: the inversion lemmas that the invariants cite. -/

namespace Sys2Proof.Machine

/-- The checks a command makes, in order (60 R210). -/
def commandChecks (i : Instr) (s : State) : List (FaultCode × Bool) :=
  match i with
  | .init => []
  | .setbr _ _ => []
  | .encdig _ => []
  | .bitdly => []
  | .start => pinChecks s
  | .stop => pinChecks s
  | .wrbyte _ => pinChecks s
  | .wrseg pos len data => wrsegChecks pos len data s
  | .showbase base _ _ _ len pos => showBaseChecks base pos len s
  | .showdec _ _ _ len pos => showChecks pos len s
  | .showhex _ _ _ len pos => showChecks pos len s
  | .clear => updateChecks s

/-- The effect a command has when no check fails. -/
def commandEffect (i : Instr) : State → State :=
  match i with
  | .init => initProc
  | .setbr level on => setBrightness (packBrightness level on)
  | .encdig d => fun s => setResult (encodeDigit s.config d.toNat) s
  | .bitdly => bitDelay
  | .start => startProc
  | .stop => stopProc
  | .wrbyte b => fun s => (writeByte b s).2
  | .wrseg pos len data => writeFrame (segBytes data (lenValue len)) pos
  | .showbase base value dots lz len pos => showNumber (signedBase base) (unsignedValue value) dots lz len pos
  | .showdec value dots lz len pos =>
    showNumber (decimalBase (signedValue value)) (signedValue value).natAbs dots lz len pos
  | .showhex value dots lz len pos => showNumber 16 (unsignedValue value) dots lz len pos
  | .clear => writeFrame [blankByte, blankByte, blankByte, blankByte] 0#2

/-- Every command is its effect behind its checks. -/
theorem exec_eq (i : Instr) (s : State) : exec i s = guarded (commandChecks i s) (commandEffect i) s := by
  cases i <;> rfl

/-- A guarded command raises its first failing check or has its effect. -/
theorem guarded_next {checks : List (FaultCode × Bool)} {effect : State → State} {s t : State}
    (h : guarded checks effect s = .next t) :
    (∃ c, firstFailing checks = some c ∧ t = raiseFault c s) ∨ (firstFailing checks = none ∧ t = effect s) := by
  unfold guarded at h
  cases hf : firstFailing checks <;> rw [hf] at h <;> cases h
  · exact .inr ⟨rfl, rfl⟩
  · exact .inl ⟨_, rfl, rfl⟩

theorem exec_next {i : Instr} {s t : State} (h : exec i s = .next t) :
    (∃ c, firstFailing (commandChecks i s) = some c ∧ t = raiseFault c s) ∨
    (firstFailing (commandChecks i s) = none ∧ t = commandEffect i s) :=
  guarded_next (exec_eq i s ▸ h)

/-- With no failing check a command has its effect. -/
theorem exec_of_checks {i : Instr} {s : State} (h : firstFailing (commandChecks i s) = none) :
    exec i s = .next (commandEffect i s) := by
  rw [exec_eq, guarded, h]

/-- With a failing check a command raises its fault. -/
theorem exec_of_failing {i : Instr} {s : State} {c : FaultCode} (h : firstFailing (commandChecks i s) = some c) :
    exec i s = .next (raiseFault c s) := by
  rw [exec_eq, guarded, h]

theorem firstFailing_cons (c : FaultCode) (p : Bool) (rest : List (FaultCode × Bool)) :
    firstFailing ((c, p) :: rest) = if p then some c else firstFailing rest := by
  cases p <;> rfl

/-- The bytes FRAME takes are the ones sent (42 R166). -/
theorem setFrame_take (seg : List Byte) (s : State) (h : seg.length ≤ 4) :
    (setFrame seg s).frame.toList.take seg.length = seg := by
  rcases seg with _ | ⟨a, _ | ⟨b, _ | ⟨c, _ | ⟨d, _ | ⟨e, l⟩⟩⟩⟩⟩ <;> simp [frameByte]
  simp at h
  omega

/-- The effect the SHOW commands share, for a legal length. -/
theorem showNumber_eq (b : Int) (mag : Nat) (dots : Byte) (lz : Bool) (len : BitVec 3) (pos : BitVec 2) (s : State)
    (h1 : 1 ≤ len.toNat) (h4 : len.toNat ≤ 4) :
    showNumber b mag dots lz len pos s =
      afterUpdate (numeralBytes s.config b mag dots lz len.toNat) pos
        (setFrame (numeralBytes s.config b mag dots lz len.toNat) s) := by
  have hl : (numeralBytes s.config b mag dots lz len.toNat).length = len.toNat := numeralBytes_length _ _ _ _ _ _ h1
  have ht := setFrame_take (numeralBytes s.config b mag dots lz len.toNat) s (by omega)
  rw [hl] at ht
  simp only [showNumber, encodeNumber, lenValue, writeFrame_eq, ht]

/-- What serving a host access can do when it answers a next state. -/
theorem serve_next {a : HostAccess} {s t : State} (h : serve a s = .next t) :
    (∃ cmd i, decode cmd s.dataReg = .ok i ∧ s.fcode = 0#4 ∧ exec i s = .next t) ∨
    (∃ cmd c, decode cmd s.dataReg = .error c ∧ s.fcode = 0#4 ∧ t = raiseFault c s) ∨
    (∃ value, t = { s with dataReg := value }) ∨ t = s ∨
    (∃ r, t = { s with reads := s.reads ++ [r], freeCount := s.freeCount + 1 }) ∨
    (a = .reset ∧ t = resetInstance s) := by
  cases a with
  | write offset value =>
    simp only [serve, hostWrite] at h
    split at h
    · unfold issue at h
      split_ifs at h with h0
      split at h
      · next i hi => exact .inl ⟨value, i, hi, h0, h⟩
      · next c hc => cases h; exact .inr (.inl ⟨value, c, hc, h0, rfl⟩)
    · cases h; exact .inr (.inr (.inl ⟨value, rfl⟩))
    · cases h; exact .inr (.inr (.inr (.inl rfl)))
  | read offset =>
    cases h
    exact .inr (.inr (.inr (.inr (.inl ⟨_, rfl⟩))))
  | reset =>
    cases h
    exact .inr (.inr (.inr (.inr (.inr ⟨rfl, rfl⟩))))

/-- What a step can do when it answers a next state: nothing, or serve the host's next access in the state without it. -/
theorem step_next {s t : State} (h : step s = .next t) :
    configOk s.config = true ∧
    ((s.requests = [] ∧ t = s) ∨
      ∃ a rest, s.requests = a :: rest ∧ serve a { s with requests := rest } = .next t) := by
  unfold step at h
  split_ifs at h with hc
  refine ⟨hc, ?_⟩
  unfold serveNext at h
  split at h
  · next hr => cases h; exact .inl ⟨hr, rfl⟩
  · next a rest hr => exact .inr ⟨a, rest, hr, h⟩

/-- A step that serves a host access. -/
theorem step_serve {s : State} {a : HostAccess} {rest : List HostAccess} (hc : configOk s.config = true)
    (hr : s.requests = a :: rest) : step s = serve a { s with requests := rest } := by
  rw [step, if_pos hc, serveNext, hr]

end Sys2Proof.Machine
end

