-- ==== Sys2Proof/Laws/PerInstr.lean ====
section
/-! SUPPORT. Laws made command by command: the OP field of a command's words is the OP of its row in the opcode table (spec 30 R74). -/

namespace Sys2Proof.Laws

open Sys2Proof

/-- The last four bits appended to a word are its OP field. -/
theorem opField_append (x : BitVec 28) (op : BitVec 4) : opField (x ++ op) = op := by
  apply BitVec.eq_of_toNat_eq
  have := op.isLt
  simp only [opField, BitVec.extractLsb'_toNat, BitVec.toNat_append, Nat.shiftRight_zero]
  rw [Nat.shiftLeft_eq, Nat.mul_comm, ← Nat.two_pow_add_eq_or_of_lt this]
  omega

/-- The OP field of the words of i is the OP of its row. -/
def OpField.Statement (i : Instr) : Prop := opField (encode i).1 = i.op

theorem OpField.init : OpField.Statement .init := opField_append _ _
theorem OpField.setbr (level : BitVec 3) (on : Bool) : OpField.Statement (.setbr level on) := opField_append _ _
theorem OpField.start : OpField.Statement .start := opField_append _ _
theorem OpField.stop : OpField.Statement .stop := opField_append _ _
theorem OpField.wrbyte (b : Byte) : OpField.Statement (.wrbyte b) := opField_append _ _
theorem OpField.wrseg (pos : BitVec 2) (len : BitVec 3) (data : Word) : OpField.Statement (.wrseg pos len data) := opField_append _ _
theorem OpField.showbase (base : BitVec 8) (value : BitVec 16) (dots : Byte) (lz : Bool) (len : BitVec 3) (pos : BitVec 2) :
    OpField.Statement (.showbase base value dots lz len pos) := opField_append _ _
theorem OpField.showdec (value : BitVec 16) (dots : Byte) (lz : Bool) (len : BitVec 3) (pos : BitVec 2) :
    OpField.Statement (.showdec value dots lz len pos) := opField_append _ _
theorem OpField.showhex (value : BitVec 16) (dots : Byte) (lz : Bool) (len : BitVec 3) (pos : BitVec 2) :
    OpField.Statement (.showhex value dots lz len pos) := opField_append _ _
theorem OpField.encdig (d : Byte) : OpField.Statement (.encdig d) := opField_append _ _
theorem OpField.clear : OpField.Statement .clear := opField_append _ _
theorem OpField.bitdly : OpField.Statement .bitdly := opField_append _ _

end Sys2Proof.Laws
end

