-- ==== Sys2Proof/Laws/System.lean ====
section
/-! SUPPORT. What a step of a system can do, what a built system holds, and the glyph check as a property of the table. -/

namespace Sys2Proof.Machine

/-- A step of instance k answers the same system where there is no such instance, and else steps that instance alone. -/
theorem systemStep_next {k : Nat} {y z : System} (h : systemStep k y = .next z) :
    (y.instances[k]? = none ∧ z = y) ∨
    ∃ s t, y.instances[k]? = some s ∧ step s = .next t ∧ z = ⟨y.instances.set k t⟩ := by
  unfold systemStep at h
  split at h
  · next hn => cases h; exact .inl ⟨hn, rfl⟩
  · next s hs =>
    split at h <;> cases h
    exact .inr ⟨s, _, hs, by assumption, rfl⟩

theorem systemStep_of_none {k : Nat} {y : System} (h : y.instances[k]? = none) : systemStep k y = .next y := by
  simp [systemStep, h]

theorem systemStep_of_step {k : Nat} {y : System} {s t : State} (h : y.instances[k]? = some s) (ht : step s = .next t) :
    systemStep k y = .next ⟨y.instances.set k t⟩ := by
  simp [systemStep, h, ht]

/-- Instance i of the created ones is configuration i, numbered k + i. -/
theorem createFrom_get (k i : Nat) (cs : List Config) :
    (createFrom k cs)[i]? = cs[i]?.map (fun c => State.create c (k + i)) := by
  induction cs generalizing k i with
  | nil => simp [createFrom]
  | cons c cs ih =>
    cases i with
    | zero => simp [createFrom]
    | succ i => simp [createFrom, ih, Nat.add_assoc, Nat.add_comm 1]

@[simp] theorem createFrom_length (k : Nat) (cs : List Config) : (createFrom k cs).length = cs.length := by
  induction cs generalizing k with
  | nil => rfl
  | cons c cs ih => simp [createFrom, ih]

theorem distinct_iff (l : List Byte) : distinct l = true ↔ l.Nodup := by
  induction l with
  | nil => simp [distinct]
  | cons g gs ih => simp [distinct, ih]

end Sys2Proof.Machine
end

