-- ==== Sys2Proof/Tests/Slice0.lean ====
section
/-! SUPPORT. Tests: ill-formed terms, words written out from spec 30, the vectors of spec 95, and for every statement with hypotheses a
witness that meets them. Expected values come from the spec, each with its place. -/

namespace Sys2Proof.Tests

open Sys2Proof Sys2Proof.Machine

set_option maxRecDepth 8000

/-! ### Helpers -/

/-- The spec's default parameters with a delay of one unit. -/
def cfg : Config := { Config.initial with bitDelay := 1 }

/-- An idle engine after INIT, before SETBR, with the draws ds and the host's accesses rs. -/
def idle (ds : List Level) (rs : List HostAccess) : State :=
  { State.create cfg 0 with
    init := true, clkDir := .known .input, dioDir := .known .input, brt := 0#4, lastAck := .high, result := 0#8,
    frame := #v[0#8, 0#8, 0#8, 0#8], dataReg := 0#32, acks := ds, requests := rs,
    trace := [.wrLow .clk, .wrLow .dio, .dir .clk .input, .dir .dio .input] }

/-- The same after SETBR 7, 1 as well. -/
def ready (ds : List Level) (rs : List HostAccess) : State := { idle ds rs with brt := 0xF#4, brv := true }

/-- Eight low draws. -/
def low8 : List Level := List.replicate 8 .low

/-- What a result leaves, by a projection; none where it stops. -/
def left {α : Type} (f : State → α) : Result → Option α
  | .next t => some (f t)
  | .fault _ => none
  | .refused _ => none

/-- The events of one command run from an empty trace, and the lines and acknowledgment after it. -/
def after (i : Instr) (s : State) : Option (List Event × DirReg × DirReg × Level) :=
  left (fun t => (t.trace, t.clkDir, t.dioDir, t.lastAck)) (exec i { s with trace := [] })

/-- Bytes an observer receives from one command. -/
def bytesSent (i : Instr) (s : State) : Option (List (List Byte)) :=
  left (fun t => received t.trace) (exec i { s with trace := [] })

/-- The first n bytes of FRAME after one command. -/
def shown (n : Nat) (i : Instr) (s : State) : Option (List Byte) := left (fun t => t.frame.toList.take n) (exec i s)

/-- The counts of one command, and LAST_ACK after it. -/
def counted (i : Instr) (s : State) : Option (Counts × Level) :=
  left (fun t => (countsOf t.trace, t.lastAck)) (exec i { s with trace := [] })

/-- FCODE after the host issues a pair in s. -/
def fcodeAfter (s : State) (cmd data : Word) : Option (BitVec 4) := left (fun t => t.fcode) (step (placeCommand cmd data s))

def cLow : Event := .dir .clk .output
def cRel : Event := .dir .clk .input
def dLow : Event := .dir .dio .output
def dRel : Event := .dir .dio .input
def w : Event := .dly 1

/-- A 0 bit and a 1 bit on the wire, and the acknowledgment phase (40 R103). -/
def bit0 : List Event := [cLow, w, dLow, w, cRel, w]
def bit1 : List Event := [cLow, w, dRel, w, cRel, w]
def ackLow : List Event := [cLow, dRel, w, cRel, w, .rdDio .low, dLow, w, cLow, w]
def ackHigh : List Event := [cLow, dRel, w, cRel, w, .rdDio .high, w, cLow, w]

/-! ### WellFormed: an ill-formed term for each check, which the check refuses -/

/-- LEN = 0 and LEN = 5 (30 R77). -/
theorem test_ill_formed_length :
    (Instr.showdec 7#16 0#8 false 0#3 0#2).wellFormed = false ∧ (Instr.showhex 7#16 0#8 false 5#3 0#2).wellFormed = false ∧
    (Instr.wrseg 0#2 0#3 0#32).wellFormed = false := by decide
/-- POS = 3, LEN = 2 (95, 2.5). -/
theorem test_ill_formed_range : (Instr.wrseg 3#2 2#3 0x0101#32).wellFormed = false := by decide
/-- A DATA byte above LEN (95, 2.5). -/
theorem test_ill_formed_data : (Instr.wrseg 0#2 2#3 0x00FF0000#32).wellFormed = false := by decide
/-- Bases 1, 37 and -128 (95, 2.5). -/
theorem test_ill_formed_base :
    (Instr.showbase 1#8 5#16 0#8 false 4#3 0#2).wellFormed = false ∧
    (Instr.showbase 37#8 5#16 0#8 false 4#3 0#2).wellFormed = false ∧
    (Instr.showbase 0x80#8 5#16 0#8 false 4#3 0#2).wellFormed = false := by decide

/-! ### Decode: each constructor by a word written out from 30 R71 (the bits of R74), and every operand at its highest value -/

theorem test_decode_init : decode 0b00000000000000000000000000000001#32 0#32 = .ok .init := rfl
theorem test_decode_setbr : decode 0b00000000000000000011110000000010#32 0#32 = .ok (.setbr 7#3 true) := rfl
theorem test_decode_setbr_off : decode 0b00000000000000000001100000000010#32 0#32 = .ok (.setbr 3#3 false) := rfl
theorem test_decode_start : decode 0b00000000000000000000000000000011#32 0#32 = .ok .start := rfl
theorem test_decode_stop : decode 0b00000000000000000000000000000100#32 0#32 = .ok .stop := rfl
theorem test_decode_wrbyte :
    decode 0b00000000000000000000000000000101#32 0b00000000000000000000000010000001#32 = .ok (.wrbyte 0x81#8) := rfl
theorem test_decode_wrseg :
    decode 0b00000000000000000000000001110110#32 0b00000000000000000000000010000000#32 = .ok (.wrseg 3#2 1#3 0x80#32) := rfl
theorem test_decode_showbase :
    decode 0b11110110010000000000001010100111#32 0b00000000000000001000000000000001#32 =
      .ok (.showbase 0xF6#8 0x8001#16 0x40#8 true 2#3 2#2) := rfl
theorem test_decode_showdec :
    decode 0b00000000100000000000000100001000#32 0b00000000000000001111111111111011#32 =
      .ok (.showdec 0xFFFB#16 0x80#8 false 4#3 0#2) := rfl
theorem test_decode_showhex :
    decode 0b00000000010000000000001010101001#32 0b00000000000000000000000010101011#32 =
      .ok (.showhex 0xAB#16 0x40#8 true 2#3 2#2) := rfl
theorem test_decode_encdig :
    decode 0b00000000000000000000000000001010#32 0b00000000000000000000000011111111#32 = .ok (.encdig 0xFF#8) := rfl
theorem test_decode_clear : decode 0b00000000000000000000000000001011#32 0#32 = .ok .clear := rfl
theorem test_decode_bitdly : decode 0b00000000000000000000000000001100#32 0#32 = .ok .bitdly := rfl
/-- A table word: CMD in bits 31..0, DATA above (95, 2.2 row 2). -/
theorem test_decode_table_word :
    decodeTableWord 64 0x0000008000000076 = some (.wrseg 3#2 1#3 0x80#32) ∧ decodeTableWord 32 0x00000000 = none := by decide
/-- The pseudo-instructions (30 R83). -/
theorem test_pseudo_instructions :
    assemble (.decz (-5)) = some [.showdec 0xFFFB#16 0#8 true 4#3 0#2] ∧
    assemble (.hex 0xAB) = some [.showhex 0xAB#16 0#8 false 4#3 0#2] ∧
    assemble (.frame 0x3F 0x06 0x5B 0x4F) = some [.wrseg 0#2 4#3 0x4F5B063F#32] ∧
    assemble (.send 0x40) = some [.start, .wrbyte 0x40#8, .stop] := by decide

/-! ### The commands (95) -/

/-- 95, 1.5: INIT emits WC WD C+ D+ and leaves both lines IN. -/
theorem test_init : (after .init (State.create cfg 0)).map (fun x => (x.1, x.2.1, x.2.2.1)) =
    some ([.wrLow .clk, .wrLow .dio, cRel, dRel], .known .input, .known .input) := by decide
/-- 95, 2.4. -/
theorem test_setbr : left (fun t => (t.brt, t.brv, t.trace)) (exec (.setbr 2#3 true) (State.create cfg 0)) = some (0xA#4, true, []) := by
  decide
theorem test_setbr_off : left (fun t => t.brt) (exec (.setbr 3#3 false) (State.create cfg 0)) = some 0x3#4 := by decide
/-- 95, 2.1, START from idle. -/
theorem test_start : after .start (idle [] []) = some ([dLow, w], .known .input, .known .output, .high) := by decide
/-- 95, 2.1, the STOP of START; STOP. -/
theorem test_stop : after .stop { idle [] [] with dioDir := .known .output } =
    some ([dLow, w, cRel, w, dRel, w], .known .input, .known .input, .high) := by decide
/-- 95, 2.1, WRBYTE 0x01 acknowledged, and WRBYTE 0x80 not acknowledged. -/
theorem test_wrbyte_ack : after (.wrbyte 0x01#8) (idle [.low] []) =
    some (bit1 ++ bit0 ++ bit0 ++ bit0 ++ bit0 ++ bit0 ++ bit0 ++ bit0 ++ ackLow, .known .output, .known .output, .low) := by decide
theorem test_wrbyte_no_ack : after (.wrbyte 0x80#8) (idle [.high] []) =
    some (bit0 ++ bit0 ++ bit0 ++ bit0 ++ bit0 ++ bit0 ++ bit0 ++ bit1 ++ ackHigh, .known .output, .known .input, .high) := by decide
/-- 95, 2.2, row 3: the bytes. -/
theorem test_wrseg_bytes : bytesSent (.wrseg 1#2 3#3 0x0006BF3F#32) (ready low8 []) =
    some [[0x40#8], [0xC1#8, 0x3F#8, 0xBF#8, 0x06#8], [0x8F#8]] := by decide
/-- 95, 2.2, row 4: no acknowledgment at all; the counts with z = 0, and LAST_ACK. -/
theorem test_wrseg_no_ack : counted (.wrseg 2#2 2#3 0#32) (ready (List.replicate 5 .high) []) =
    some (⟨152, 152, 5, 0⟩, .high) := by decide
/-- 95, 2.2, row 5 (215 DIR with seven acknowledged bytes). -/
theorem test_clear : bytesSent .clear (ready low8 []) = some [[0x40#8], [0xC0#8, 0#8, 0#8, 0#8, 0#8], [0x8F#8]] ∧
    counted .clear (ready low8 []) = some (⟨208, 208, 7, 0⟩, .low) := by decide
/-- 95, 1.2. -/
theorem test_showbase : shown 4 (.showbase 0xF6#8 5#16 0#8 false 4#3 0#2) (ready low8 []) = some [0x00#8, 0x00#8, 0x40#8, 0x6D#8] := by decide
/-- 95, part 3, P5, command 5. -/
theorem test_showbase_digit_16 : shown 1 (.showbase 17#8 16#16 0#8 false 1#3 3#2) (ready low8 []) = some [0x3F#8] := by decide
/-- 95, 1.4, the dot on position 1. -/
theorem test_showdec_dot : shown 4 (.showdec 1234#16 0x40#8 false 4#3 0#2) (ready low8 []) = some [0x06#8, 0xDB#8, 0x4F#8, 0x66#8] := by decide
/-- 95, 2.3: SHOWDEC of -32768 shows 2768. -/
theorem test_showdec_most_negative : shown 4 (.showdec 0x8000#16 0#8 false 4#3 0#2) (ready low8 []) = some [0x5B#8, 0x07#8, 0x7D#8, 0x7F#8] := by decide
/-- 95, part 3, P2. -/
theorem test_showhex : bytesSent (.showhex 0xAB#16 0x40#8 true 2#3 2#2) { ready low8 [] with brt := 0xA#4 } =
    some [[0x40#8], [0xC2#8, 0x77#8, 0xFC#8], [0x8A#8]] := by decide
/-- 95, 1.6. -/
theorem test_encdig : left (fun t => (t.result, t.rv, t.trace)) (exec (.encdig 122#8) (State.create cfg 0)) =
    some (0x77#8, true, []) := by decide
/-- 95, 2.5: BITDLY from reset. -/
theorem test_bitdly : (after .bitdly (State.create cfg 0)).map (fun x => x.1) = some [w] := by decide

/-- The encoder on rows of 95, 2.3: overflow, no room for the minus, the minus, zeros shown, the zero case, a dot on a blank,
digit 35, all dots. -/
theorem test_numeral_rows :
    numeralBytes cfg 10 12345 0x00#8 false 4 = [0x5B#8, 0x4F#8, 0x66#8, 0x6D#8] ∧
    numeralBytes cfg (-10) 1234 0x00#8 false 4 = [0x06#8, 0x5B#8, 0x4F#8, 0x66#8] ∧
    numeralBytes cfg (-10) 12 0x00#8 false 4 = [0x00#8, 0x40#8, 0x06#8, 0x5B#8] ∧
    numeralBytes cfg (-10) 5 0x00#8 true 4 = [0x3F#8, 0x3F#8, 0x3F#8, 0x6D#8] ∧
    numeralBytes cfg (-10) 0 0x00#8 false 4 = [0x00#8, 0x00#8, 0x00#8, 0x3F#8] ∧
    numeralBytes cfg (-10) 7 0x40#8 false 4 = [0x00#8, 0x80#8, 0x40#8, 0x07#8] ∧
    numeralBytes cfg 10 0 0x40#8 false 4 = [0x00#8, 0x80#8, 0x00#8, 0x3F#8] ∧
    numeralBytes { cfg with dotsInZeroCase := false } 10 0 0x40#8 false 4 = [0x00#8, 0x00#8, 0x00#8, 0x3F#8] ∧
    numeralBytes cfg 10 100 0x00#8 false 2 = [0x3F#8, 0x3F#8] ∧
    numeralBytes cfg 10 12 0x20#8 false 2 = [0x06#8, 0x5B#8] ∧
    numeralBytes cfg 10 1234 0xF0#8 false 4 = [0x86#8, 0xDB#8, 0xCF#8, 0xE6#8] ∧
    numeralBytes cfg 36 35 0x00#8 false 1 = [0x4F#8] := by decide

/-- The fault codes of 95, 2.5, from INIT; SETBR 7, 1. -/
theorem test_faults_ready :
    fcodeAfter (ready [] []) 0x00000000#32 0#32 = some 1#4 ∧ fcodeAfter (ready [] []) 0x0000000D#32 0#32 = some 1#4 ∧
    fcodeAfter (ready [] []) 0x00000011#32 0#32 = some 2#4 ∧ fcodeAfter (ready [] []) 0x00000001#32 1#32 = some 2#4 ∧
    fcodeAfter (ready [] []) 0x0000BC02#32 0#32 = some 2#4 ∧ fcodeAfter (ready [] []) 0x00004008#32 0#32 = some 3#4 ∧
    fcodeAfter (ready [] []) 0x00000148#32 0#32 = some 3#4 ∧ fcodeAfter (ready [] []) 0x00000086#32 0x00FF0000#32 = some 2#4 ∧
    fcodeAfter (ready [] []) 0x000000B6#32 0x00000101#32 = some 4#4 ∧ fcodeAfter (ready [] []) 0x00000107#32 5#32 = some 5#4 ∧
    fcodeAfter (ready [] []) 0xDB000107#32 5#32 = some 5#4 ∧ fcodeAfter (ready [] []) 0x80000107#32 5#32 = some 5#4 ∧
    fcodeAfter (ready [] []) 0x000000B7#32 5#32 = some 4#4 ∧ fcodeAfter (ready [] []) 0x10000109#32 0xAB#32 = some 2#4 ∧
    fcodeAfter (ready [] []) 0x00000109#32 0x00010000#32 = some 2#4 ∧ fcodeAfter (ready [] []) 0x0000000A#32 0x100#32 = some 2#4 ∧
    fcodeAfter (ready low8 []) 0x24000047#32 0x23#32 = some 0#4 := by decide

/-- The fault codes of 95, 2.5, before INIT and before SETBR; encoding checks come before state checks. -/
theorem test_faults_session :
    fcodeAfter (State.create cfg 0) 0x00000003#32 0#32 = some 6#4 ∧ fcodeAfter (idle [] []) 0x00000106#32 0#32 = some 7#4 ∧
    fcodeAfter (State.create cfg 0) 0x000000B6#32 0#32 = some 4#4 ∧ fcodeAfter (State.create cfg 0) 0x00003C02#32 0#32 = some 0#4 ∧
    fcodeAfter (State.create cfg 0) 0x0000000C#32 0#32 = some 0#4 := by decide

/-- 95, part 3: the STATUS word at the end of P1 and of P3. -/
theorem test_status :
    statusWord { ready [] [] with ackv := true, lastAck := .low } = 0x0007#32 ∧
    statusWord { idle [] [] with ackv := true, lastAck := .high, rv := true, fcode := 7#4 } = 0x071D#32 := by decide

/-- 00 R14, 60 R216: the calls of INIT on the default pins. -/
theorem test_gpio_calls : gpioCalls (idle [] []) =
    [.writePin 0 0 .low, .writePin 0 1 .low, .configurePinDirection 0 0 .input, .configurePinDirection 0 1 .input] := by decide

/-! ### Witnesses: a state and operands that meet all the hypotheses of a statement together -/

theorem witness_DecodeOfEncode : (Instr.wrseg 3#2 4#3 0xFFFFFFFF#32).encodable = true ∧ (Instr.wrseg 0#2 0#3 0#32).encodable = true ∧
    (Instr.showbase 0xFF#8 0xFFFF#16 0xFF#8 true 7#3 3#2).encodable = true := by decide

theorem witness_EncodeOfDecode : decode 0xFFFF03F7#32 0x0000FFFF#32 = .ok (.showbase 0xFF#8 0xFFFF#16 0xFF#8 true 7#3 3#2) := rfl

/-- Each clause: the decode tests above, and the highest value of every operand here. -/
theorem witness_WordsAreSumsOfFields :
    decode 0x00003C02#32 0#32 = .ok (.setbr 7#3 true) ∧ decode 0x00000005#32 0xFF#32 = .ok (.wrbyte 0xFF#8) ∧
    decode 0x00000136#32 0xFFFFFFFF#32 = .ok (.wrseg 3#2 4#3 0xFFFFFFFF#32) ∧
    decode 0xFFFF03F7#32 0xFFFF#32 = .ok (.showbase 0xFF#8 0xFFFF#16 0xFF#8 true 7#3 3#2) ∧
    decode 0x00FF03F8#32 0xFFFF#32 = .ok (.showdec 0xFFFF#16 0xFF#8 true 7#3 3#2) ∧
    decode 0x00FF03F9#32 0xFFFF#32 = .ok (.showhex 0xFFFF#16 0xFF#8 true 7#3 3#2) ∧
    decode 0x0000000A#32 0xFF#32 = .ok (.encdig 0xFF#8) := ⟨rfl, rfl, rfl, rfl, rfl, rfl, rfl⟩

theorem witness_AssemblerRanges : ∃ is i, assemble (.send 255) = some is ∧ i ∈ is :=
  ⟨[.start, .wrbyte 0xFF#8, .stop], .wrbyte 0xFF#8, by decide, by decide⟩

/-- Both ends of every range, one clause a line; the pseudo-instructions' clauses but the last have no hypothesis. -/
theorem witness_AssembledOperandsAreFields :
    (operandsFit (.setbr 7 1) = true ∧ operandsFit (.setbr 0 0) = true) ∧
    (operandsFit (.wrbyte 255) = true ∧ operandsFit (.wrbyte 0) = true) ∧
    (operandsFit (.encdig 255) = true ∧ operandsFit (.encdig 0) = true) ∧
    (operandsFit (.wrseg 3 [255, 0, 255, 255]) = true ∧ operandsFit (.wrseg 0 [0]) = true ∧
      ([255, 0, 255, 255] : List Int)[3]? = some 255) ∧
    (operandsFit (.showbase (-128) 65535 255 1 7 3) = true ∧ operandsFit (.showbase 127 0 0 0 0 0) = true) ∧
    (operandsFit (.showdec (-32768) 255 1 7 3) = true ∧ operandsFit (.showdec 32767 0 0 0 0) = true) ∧
    (operandsFit (.showhex 65535 255 1 7 3) = true ∧ operandsFit (.showhex 0 0 0 0 0) = true) ∧
    (operandsFit (.send 255) = true ∧ operandsFit (.send 0) = true) := by decide

/-- A state whose next host access issues cmd, with data in DATA. -/
theorem issuesNow_ready (cmd data : Word) : issuesNow (placeCommand cmd data (ready low8 [])) cmd data [] :=
  ⟨(by decide : configOk cfg = true), rfl, rfl, rfl⟩

theorem witness_StepRunsTheDecodedCommand :
    (issuesNow (placeCommand 0x3#32 0#32 (ready low8 [])) 0x3#32 0#32 [] ∧ decode 0x3#32 0#32 = .ok .start) ∧
    (issuesNow (placeCommand 0xD#32 0#32 (ready low8 [])) 0xD#32 0#32 [] ∧ decode 0xD#32 0#32 = .error .illegalOp) :=
  ⟨⟨issuesNow_ready _ _, rfl⟩, ⟨issuesNow_ready _ _, rfl⟩⟩

theorem witness_IdleBetweenCommands : configOk (ready [] []).config = true ∧ (ready [] []).requests = [] := by decide

/-- Every outcome of the list of 60 R210, and a pair that passes. -/
theorem witness_FirstFailingCheckIsReported :
    (∀ cmd data, issuesNow (placeCommand cmd data (ready low8 [])) cmd data []) ∧
    faultOf 0x0#32 0#32 (ready [] []) = some .illegalOp ∧ faultOf 0xD#32 0#32 (ready [] []) = some .illegalOp ∧
    faultOf 0x4008#32 0#32 (ready [] []) = some .badLength ∧ faultOf 0x148#32 0#32 (ready [] []) = some .badLength ∧
    faultOf 0x86#32 0x00FF0000#32 (ready [] []) = some .reservedField ∧ faultOf 0xB7#32 5#32 (ready [] []) = some .badRange ∧
    faultOf 0x25000107#32 5#32 (ready [] []) = some .badBase ∧ faultOf 0xFF000107#32 5#32 (ready [] []) = some .badBase ∧
    faultOf 0x3#32 0#32 (State.create cfg 0) = some .notInitialized ∧ faultOf 0xB#32 0#32 (idle [] []) = some .brightnessUnset ∧
    faultOf 0x24000047#32 0x23#32 (ready [] []) = none :=
  ⟨issuesNow_ready, by decide⟩

theorem witness_StateChecks :
    ((Instr.wrseg 3#2 1#3 0x80#32).wellFormed = true ∧ needsInit (.wrseg 3#2 1#3 0x80#32) = true ∧ (State.create cfg 0).init = false) ∧
    (Instr.clear.wellFormed = true ∧ needsBrightness .clear = true ∧ (idle [] []).init = true ∧ (idle [] []).brv = false) ∧
    (Instr.bitdly.wellFormed = true ∧ needsInit .bitdly = false) := by decide

/-- Both cases: a command that completes and one that faults. -/
theorem witness_FaultsArePrecise :
    (∃ t, exec .clear (ready low8 []) = .next t ∧ t.fcode = 0#4) ∧ (∃ t, exec .clear (idle [] []) = .next t ∧ t.fcode = 7#4) :=
  ⟨⟨_, rfl, rfl⟩, ⟨_, rfl, rfl⟩⟩

theorem witness_FaultedEngineAcceptsNoCommand :
    let s := { ready [] [.write 0x0#32 0x1#32] with fcode := 7#4 }
    configOk s.config = true ∧ s.fcode ≠ 0#4 ∧ s.requests = [.write 0x0#32 0x1#32] := by decide

/-- The three cases: nothing, a fault, a reset. -/
theorem witness_OnlyResetClearsFcode :
    (∃ t, step (ready [] [.write 0x4#32 0#32]) = .next t ∧ t.fcode = 0#4) ∧
    (∃ t, step (ready [] [.write 0x0#32 0xD#32]) = .next t ∧ t.fcode = 1#4) ∧
    (∃ t, step { ready [] [.reset] with fcode := 7#4 } = .next t ∧ t.fcode = 0#4) := ⟨⟨_, rfl, rfl⟩, ⟨_, rfl, rfl⟩, ⟨_, rfl, rfl⟩⟩

theorem witness_FaultCodesStayLegal :
    FaultCodeLegal (idle [] [.write 0x0#32 0xB#32]) ∧ ∃ t, step (idle [] [.write 0x0#32 0xB#32]) = .next t ∧ t.fcode = 7#4 :=
  ⟨(by decide : (0#4 : BitVec 4).toNat ≤ 7), _, rfl, rfl⟩

theorem witness_InitIsIdempotent : ∃ t, exec .init (State.create cfg 0) = .next t := ⟨_, rfl⟩

/-- For START, STOP, WRBYTE and the raw burst. -/
theorem witness_PinCommands : (idle [] []).init = true := by decide

/-- For WRSEG, the SHOW commands, CLEAR and the brightness statement, at the ends of POS and LEN. -/
theorem witness_DisplayUpdates :
    (ready [] []).init = true ∧ (ready [] []).brv = true ∧ needsBrightness .clear = true ∧
    (Instr.wrseg 0#2 4#3 0xFFFFFFFF#32).wellFormed = true ∧ (Instr.wrseg 3#2 1#3 0xFF#32).wellFormed = true ∧
    (Instr.showbase 36#8 0xFFFF#16 0xFF#8 false 4#3 0#2).wellFormed = true ∧
    (Instr.showbase 0xDC#8 0#16 0#8 true 1#3 3#2).wellFormed = true ∧ (Instr.showbase 2#8 0#16 0#8 true 1#3 3#2).wellFormed = true ∧
    (Instr.showdec 0x8000#16 0xFF#8 false 4#3 0#2).wellFormed = true ∧ (Instr.showdec 0x7FFF#16 0#8 true 1#3 3#2).wellFormed = true ∧
    (Instr.showhex 0xFFFF#16 0xFF#8 false 4#3 0#2).wellFormed = true ∧ (Instr.showhex 0#16 0#8 true 1#3 3#2).wellFormed = true := by
  decide

theorem witness_NumeralRoundTrip :
    (ready [] []).init = true ∧ (ready [] []).brv = true ∧ glyphsOk (ready [] []).config = true ∧
    (2 ≤ (2#8 : BitVec 8).toNat ∧ (2#8 : BitVec 8).toNat ≤ 16 ∧ (15#16 : BitVec 16).toNat < (2#8 : BitVec 8).toNat ^ 4) ∧
    (2 ≤ (16#8 : BitVec 8).toNat ∧ (16#8 : BitVec 8).toNat ≤ 16 ∧ (0xFFFF#16 : BitVec 16).toNat < (16#8 : BitVec 8).toNat ^ 4) := by
  decide

/-- The hypotheses, with a magnitude that leaves room for the minus and the next one, which does not. -/
theorem witness_MinusShownWhenThereIsRoom :
    glyphsOk cfg = true ∧ cfg.minusGlyph ≠ 0x00#8 ∧ 2 ≤ (-10 : Int).natAbs ∧ 999 < (-10 : Int).natAbs ^ (4 - 1) ∧
    ¬ 1000 < (-10 : Int).natAbs ^ (4 - 1) := by decide

theorem witness_OverflowDropsHighDigits :
    (0xF6#8 : BitVec 8).toInt.natAbs ^ (4#3 : BitVec 3).toNat ≤ (10000#16 : BitVec 16).toNat := by decide

theorem witness_ObserverReceivesThreeBursts :
    (∀ i ∈ [Instr.clear, .wrseg 3#2 1#3 0xFF#32, .showdec 0x8000#16 0xFF#8 false 4#3 0#2, .showhex 0xFFFF#16 0#8 true 4#3 0#2,
        .showbase 36#8 5#16 0#8 false 1#3 3#2],
      needsBrightness i = true ∧ completes i (ready low8 []) = true) := by decide

/-- Every row of the table of 70 R244. -/
theorem witness_EventCounts :
    ∀ i ∈ [Instr.init, .setbr 7#3 true, .start, .stop, .wrbyte 0#8, .wrseg 3#2 1#3 0xFF#32, .showbase 2#8 5#16 0#8 false 1#3 3#2,
      .showdec 5#16 0#8 true 4#3 0#2, .showhex 5#16 0#8 true 4#3 0#2, .encdig 0#8, .clear, .bitdly],
      completes i (ready low8 []) = true := by decide

theorem witness_OnlyInitWritesLatches : ∃ t ev, exec .stop (idle [] []) = .next t ∧ t.trace = (idle [] []).trace ++ ev ∧ ev ≠ [] ∧
    Instr.stop ≠ .init :=
  ⟨_, [dLow, w, cRel, w, dRel, w], rfl, rfl, by decide, by decide⟩

theorem witness_TraceIsOnlyAppended :
    (∃ t, exec .bitdly (idle [] []) = .next t) ∧
    (∃ t, step (idle [] [.write 0x0#32 0xC#32]) = .next t ∧ t.trace ≠ (idle [] []).trace) ∧
    ¬ resetsNow (idle [] [.write 0x0#32 0xC#32]) :=
  ⟨⟨_, rfl⟩, ⟨_, rfl, by decide⟩, fun ⟨_, h⟩ => by cases h⟩

theorem witness_StepKeepsTraceAgreement :
    TraceAgrees (idle [.low] [.write 0x0#32 0x5#32]) ∧ ∃ t, step (idle [.low] [.write 0x0#32 0x5#32]) = .next t ∧ t.ackv = true :=
  ⟨⟨rfl, rfl, rfl, rfl, by simp [idle]⟩, _, rfl, rfl⟩

theorem witness_LinesWrittenOnceInitialized :
    LinesWritten (idle [] [.write 0x0#32 0x3#32]) ∧ (idle [] [.write 0x0#32 0x3#32]).init = true ∧
    ∃ t, step (idle [] [.write 0x0#32 0x3#32]) = .next t ∧ t.dioDir = .known .output :=
  ⟨fun _ => ⟨by decide, by decide⟩, rfl, _, rfl, rfl⟩

/-- A command, and a reset, in an initialized engine. -/
theorem witness_OnlyResetClearsInit :
    (∃ t, exec .init (State.create cfg 0) = .next t) ∧
    (∃ t, exec .stop (idle [] []) = .next t ∧ (idle [] []).init = true) ∧
    (∃ t, step (idle [] [.reset]) = .next t ∧ (idle [] [.reset]).init = true ∧ t.init = false) :=
  ⟨⟨_, rfl⟩, ⟨_, rfl, rfl⟩, ⟨_, rfl, rfl, rfl⟩⟩

theorem witness_ConfigurationNeverChanges : ∃ t, step (idle [] [.write 0x0#32 0x1#32]) = .next t := ⟨_, rfl⟩

/-- Each way to be refused, and an accepted configuration. -/
theorem witness_BadConfigurationIsRefused :
    (∀ c ∈ [{ cfg with cmdAddr := 0xC1#8 }, { cfg with cmdDisplay := 0x88#8 }, { cfg with dioPin := 0 },
        { cfg with glyph := cfg.glyph.set 1 0x3F#8 }, { cfg with glyph := cfg.glyph.set 15 0x00#8 },
        { cfg with minusGlyph := 0x71#8 }, { cfg with glyph := cfg.glyph.set 0 0x80#8 }], configOk c = false) ∧
    configOk cfg = true := by decide

theorem witness_HostResetCreatesTheInstance :
    configOk (ready [] [.reset]).config = true ∧ (ready [] [.reset]).requests = [.reset] := by decide

/-- With ACKV = 1 and with ACKV = 0. -/
theorem witness_StatusLayout :
    configOk (ready [] []).config = true ∧ (ready [] [.read 0x8#32]).requests = [.read 0x8#32] ∧
    ({ ready [] [.read 0x8#32] with ackv := true }).ackv = true ∧ (ready [] [.read 0x8#32]).ackv = false := by decide

/-- Every clause, with the register written and unwritten. -/
theorem witness_UnwrittenReadsAreObservationFaults :
    configOk (ready [] []).config = true ∧
    (∀ offset ∈ [(0xC#32 : Word), 0x10#32, 0x8#32, 0x0#32, 0x14#32], (ready [] [.read offset]).requests = [.read offset]) ∧
    ({ ready [] [] with rv := true, ackv := true }.rv = true ∧ { ready [] [] with rv := true, ackv := true }.ackv = true ∧
      (ready [] []).brv = true) ∧
    ((ready [] []).rv = false ∧ (ready [] []).ackv = false ∧ (idle [] []).brv = false) :=
  ⟨by decide, fun _ _ => rfl, ⟨rfl, rfl, rfl⟩, rfl, rfl, rfl⟩

/-- 10 R35, 92 D18: a read of an unwritten RESULT, then of a written BRT; the reads go on. -/
theorem test_unwritten_read :
    left (fun t => (t.reads, t.fcode)) (serve (.read 0xC#32) (idle [] [])) = some ([⟨0xC#32, none, some .result⟩], 0#4) ∧
    left (fun t => t.reads) (serve (.read 0x10#32) (ready [] [])) = some [⟨0x10#32, some 0xF#32, none⟩] := by decide

/-- The three clauses, at offsets beside the listed ones. -/
theorem witness_OtherOffsets :
    configOk (ready [] []).config = true ∧
    (∀ offset ∈ [(0x1#32 : Word), 0x5#32, 0x9#32, 0xD#32, 0x11#32, 0x14#32, 0xFFFFFFFF#32],
      (ready [] [.read offset]).requests = [.read offset] ∧ offset.toNat ≠ 0x0 ∧ offset.toNat ≠ 0x4 ∧ offset.toNat ≠ 0x8 ∧
        offset.toNat ≠ 0xC ∧ offset.toNat ≠ 0x10) ∧
    ((ready [] [.write 0x8#32 5#32]).requests = [.write 0x8#32 5#32] ∧ (0x8#32 : Word).toNat ≠ 0x0 ∧ (0x8#32 : Word).toNat ≠ 0x4) ∧
    (ready [] [.write 0x4#32 5#32]).requests = [.write 0x4#32 5#32] :=
  ⟨by decide, fun offset h => ⟨rfl, by simp at h; rcases h with rfl | rfl | rfl | rfl | rfl | rfl | rfl <;> simp⟩, by decide, rfl⟩

theorem witness_CommandUsesTheLastData :
    let s := ready [] [.write 0x4#32 0x40#32, .write 0x0#32 0x5#32]
    configOk s.config = true ∧ s.fcode = 0#4 ∧ s.requests = [.write 0x4#32 0x40#32, .write 0x0#32 0x5#32] := by decide

/-- Two instances, of which the second steps. -/
theorem witness_OtherInstancesAreUntouched :
    ∃ z, systemStep 1 ⟨[idle [] [], idle [] [.write 0x0#32 0xC#32]]⟩ = .next z ∧ 0 ≠ 1 ∧
      (System.mk [idle [] [], idle [] [.write 0x0#32 0xC#32]]).instances[1]? = some (idle [] [.write 0x0#32 0xC#32]) :=
  ⟨_, rfl, by decide, rfl⟩

/-- Three instances that share no pin, the third on another port, and two that share one. -/
theorem witness_SharedPinsAreRefused :
    (∃ y, buildSystem [cfg, { cfg with clkPin := 2, dioPin := 3 }, { cfg with port := 1 }] = .ok y) ∧
    buildSystem [cfg, { cfg with clkPin := 2, dioPin := 0 }] = .error .sharedPin := ⟨⟨_, rfl⟩, rfl⟩

/-- Two instances that each emit a delay, with a possible global list, and a mixed list of the two new events. -/
theorem witness_StepsOfInstancesCommute :
    let s := { idle [] [.write 0x0#32 0xC#32] with dataReg := 0#32, trace := [] }
    ∃ y1 z, 0 ≠ 1 ∧ systemStep 0 ⟨[s, s]⟩ = .next y1 ∧ systemStep 1 y1 = .next z ∧ ¬ resetsNow s ∧ globalTrace ⟨[s, s]⟩ [] ∧
      ofInstance 0 [(1, w), (0, w)] = [w] ∧ ofInstance 1 [(1, w), (0, w)] = [w] ∧
      z.instances.map (fun t => t.trace) = [[w], [w]] :=
  ⟨_, _, by decide, rfl, rfl, (fun ⟨_, h⟩ => by cases h), (fun k => match k with | 0 => rfl | 1 => rfl | _ + 2 => rfl), rfl, rfl, rfl⟩

end Sys2Proof.Tests
end

section
/-! SUPPORT. What the effect of a command leaves alone, and the events it appends to the trace, said once over the commands. -/

namespace Sys2Proof.Machine

/-- What the effect of the command i leaves of a state s in the state t after it: INIT is written by the command INIT alone
(10 R25), and what belongs to the host, to the faults and to the configuration by none (10 R22, R30, R33). -/
structure EffectKeeps (i : Instr) (s t : State) : Prop where
  config : t.config = s.config
  init : t.init = (decide (i = .init) || s.init)
  fcode : t.fcode = s.fcode
  dataReg : t.dataReg = s.dataReg
  requests : t.requests = s.requests
  reads : t.reads = s.reads
  stream : t.stream = s.stream

theorem commandEffect_keeps (i : Instr) (s : State) : EffectKeeps i s (commandEffect i s) := by
  cases i with
  | init | setbr | encdig | bitdly | start | stop => exact ⟨rfl, rfl, rfl, rfl, rfl, rfl, rfl⟩
  | wrbyte =>
    simp only [commandEffect, writeByte_eq]
    exact ⟨rfl, rfl, rfl, rfl, rfl, rfl, rfl⟩
  | wrseg | clear =>
    simp only [commandEffect, writeFrame_eq]
    exact ⟨rfl, rfl, rfl, rfl, rfl, rfl, rfl⟩
  | showbase | showdec | showhex =>
    simp only [commandEffect, showNumber, writeFrame_eq]
    exact ⟨rfl, rfl, rfl, rfl, rfl, rfl, rfl⟩

/-- The events of the display update of seg at pos from the state s (41 R131). -/
def updateEventsFrom (seg : List Byte) (pos : BitVec 2) (s : State) : List Event :=
  updateEvents s.config s.brt pos seg (nextDraws s (seg.length + 3))

/-- The events of a SHOW command that encodes the numeral in len positions (42 R166). -/
def showEvents (b : Int) (mag : Nat) (dots : Byte) (lz : Bool) (len : BitVec 3) (pos : BitVec 2) (s : State) : List Event :=
  let t := encodeNumber b mag dots lz (lenValue len) s
  updateEventsFrom (t.frame.toList.take (lenValue len)) pos t

/-- The events the effect of a command appends to the trace. -/
def commandEvents (i : Instr) (s : State) : List Event :=
  match i with
  | .init => [.wrLow .clk, .wrLow .dio, .dir .clk .input, .dir .dio .input]
  | .setbr _ _ => []
  | .encdig _ => []
  | .bitdly => [.dly s.config.bitDelay]
  | .start => startEvents s.config.bitDelay
  | .stop => stopEvents s.config.bitDelay
  | .wrbyte b => byteEvents s.config.bitDelay b (drawAt s 0)
  | .wrseg pos len data => updateEventsFrom (segBytes data (lenValue len)) pos s
  | .showbase base value dots lz len pos => showEvents (signedBase base) (unsignedValue value) dots lz len pos s
  | .showdec value dots lz len pos =>
    showEvents (decimalBase (signedValue value)) (signedValue value).natAbs dots lz len pos s
  | .showhex value dots lz len pos => showEvents 16 (unsignedValue value) dots lz len pos s
  | .clear => updateEventsFrom [blankByte, blankByte, blankByte, blankByte] 0#2 s

/-- The trace is appended to and not read (10 R37): over any trace the effect appends the same events and does all else the same. -/
theorem commandEffect_withTrace (i : Instr) (s : State) (tr : List Event) :
    commandEffect i { s with trace := tr } = { commandEffect i s with trace := tr ++ commandEvents i s } := by
  cases i with
  | init => simp [commandEffect, initProc, writePinLow, setDir, setDirReg, emit, commandEvents]
  | setbr | encdig => simp [commandEffect, setBrightness, setResult, commandEvents]
  | bitdly => rfl
  | start => simp only [commandEffect, startProc_eq]; rfl
  | stop => simp only [commandEffect, stopProc_eq]; rfl
  | wrbyte => simp only [commandEffect, writeByte_eq]; rfl
  | wrseg | clear => simp only [commandEffect, writeFrame_eq]; rfl
  | showbase | showdec | showhex => simp only [commandEffect, showNumber, writeFrame_eq]; rfl

theorem commandEffect_trace (i : Instr) (s : State) : (commandEffect i s).trace = s.trace ++ commandEvents i s :=
  congrArg State.trace (commandEffect_withTrace i s s.trace)

/-- The checks of a command do not read the trace (10 R37). -/
theorem commandChecks_withTrace (i : Instr) (s : State) (tr : List Event) :
    commandChecks i { s with trace := tr } = commandChecks i s := by
  cases i <;> rfl

/-- Over another trace a command appends the same events and does all else the same (10 R37). -/
theorem exec_withTrace {i : Instr} {s t : State} (h : exec i s = .next t) :
    ∃ ev, t.trace = s.trace ++ ev ∧ ∀ tr : List Event, exec i { s with trace := tr } = .next { t with trace := tr ++ ev } := by
  obtain ⟨c, hc, rfl⟩ | ⟨hc, rfl⟩ := exec_next h
  · refine ⟨[], (List.append_nil _).symm, fun tr => ?_⟩
    rw [exec_of_failing (by rwa [commandChecks_withTrace]), List.append_nil]
    rfl
  · refine ⟨commandEvents i s, commandEffect_trace i s, fun tr => ?_⟩
    rw [exec_of_checks (by rwa [commandChecks_withTrace]), commandEffect_withTrace]

/-- A command leaves FCODE alone or raises a fault (60 R201). -/
theorem exec_fcode {i : Instr} {s t : State} (h : exec i s = .next t) :
    t.fcode = s.fcode ∨ ∃ c : FaultCode, t.fcode = c.code := by
  obtain ⟨c, -, rfl⟩ | ⟨-, rfl⟩ := exec_next h
  · exact .inr ⟨c, rfl⟩
  · exact .inl (commandEffect_keeps i s).fcode

/-- No command clears INIT (10 R25). -/
theorem exec_keeps_init {i : Instr} {s t : State} (h : exec i s = .next t) (hi : s.init = true) : t.init = true := by
  obtain ⟨c, -, rfl⟩ | ⟨-, rfl⟩ := exec_next h
  · exact hi
  · rw [(commandEffect_keeps i s).init, hi, Bool.or_true]

/-- What a step can do to the engine when it answers a next state: run a command, raise the decoder's fault, touch only the host's
accesses, DATA and the model's own fields, or reset. -/
theorem step_cases {s t : State} (h : step s = .next t) :
    (∃ i rest, s.fcode = 0#4 ∧ exec i { s with requests := rest } = .next t) ∨
    (∃ c rest, s.fcode = 0#4 ∧ t = raiseFault c { s with requests := rest }) ∨
    (∃ data rest reads n, t = { s with dataReg := data, requests := rest, reads := reads, freeCount := n }) ∨
    (resetsNow s ∧ ∃ rest, t = resetInstance { s with requests := rest }) := by
  obtain ⟨-, ⟨-, rfl⟩ | ⟨a, rest, hr, ha⟩⟩ := step_next h
  · exact .inr (.inr (.inl ⟨_, _, _, _, rfl⟩))
  obtain ⟨_, i, -, h0, he⟩ | ⟨_, c, -, h0, rfl⟩ | ⟨_, rfl⟩ | rfl | ⟨_, rfl⟩ | ⟨rfl, rfl⟩ := serve_next ha
  · exact .inl ⟨i, rest, h0, he⟩
  · exact .inr (.inl ⟨c, rest, h0, rfl⟩)
  · exact .inr (.inr (.inl ⟨_, _, _, _, rfl⟩))
  · exact .inr (.inr (.inl ⟨_, _, _, _, rfl⟩))
  · exact .inr (.inr (.inl ⟨_, _, _, _, rfl⟩))
  · exact .inr (.inr (.inr ⟨⟨rest, hr⟩, rest, rfl⟩))

end Sys2Proof.Machine
end

section
/-! SUPPORT. The word STATUS bit by bit (10 R34). -/

namespace Sys2Proof.Machine

theorem flagBit_toNat (b : Bool) : (flagBit b).toNat = b.toNat := by
  cases b <;> rfl

@[simp] theorem flagBit_getElem_zero (b : Bool) : (flagBit b)[0] = b := by
  cases b <;> rfl

theorem level_bit_eq_flagBit (a : Level) : a.bit = flagBit (decide (a = .high)) := by
  cases a <;> rfl

/-- Appended words are a sum of numbers. -/
theorem toNat_append_eq_add {m n : Nat} (x : BitVec m) (y : BitVec n) : (x ++ y).toNat = 2 ^ n * x.toNat + y.toNat := by
  rw [BitVec.toNat_append, Nat.shiftLeft_eq, Nat.mul_comm, Nat.two_pow_add_eq_or_of_lt y.isLt]

/-- The flags at bits 0 to 4. -/
theorem statusWord_flags (s : State) :
    (statusWord s).getLsbD 0 = s.init ∧ (statusWord s).getLsbD 1 = s.brv ∧ (statusWord s).getLsbD 2 = s.ackv ∧
      (statusWord s).getLsbD 3 = decide (statusAck s = .high) ∧ (statusWord s).getLsbD 4 = s.rv := by
  simp only [statusWord, BitVec.getLsbD_append, level_bit_eq_flagBit]
  simp

/-- The whole word as a sum: each field at its place and nothing anywhere else. -/
theorem statusWord_toNat (s : State) :
    (statusWord s).toNat = s.init.toNat + 2 * s.brv.toNat + 4 * s.ackv.toNat + 8 * (decide (statusAck s = .high)).toNat
      + 16 * s.rv.toNat + 256 * s.fcode.toNat := by
  simp only [statusWord, toNat_append_eq_add, flagBit_toNat, level_bit_eq_flagBit, BitVec.toNat_ofNat]
  omega

/-- FCODE at bits 11:8, with zeros at 7:5 and above it. -/
theorem statusWord_fcode (s : State) :
    (statusWord s).toNat / 32 % 8 = 0 ∧ (statusWord s).toNat / 256 % 16 = s.fcode.toNat ∧ (statusWord s).toNat < 2 ^ 12 := by
  have hinit := s.init.toNat_lt
  have hbrv := s.brv.toNat_lt
  have hackv := s.ackv.toNat_lt
  have hack := (decide (statusAck s = .high)).toNat_lt
  have hrv := s.rv.toNat_lt
  have hfcode := s.fcode.isLt
  rw [statusWord_toNat]
  omega

theorem statusAck_of_ackv {s : State} (h : s.ackv = true) : statusAck s = s.lastAck := if_pos h

end Sys2Proof.Machine
end

section
/-! CLAIMS. The state (spec 10): FCODE, the trace, INIT, the reset table and STATUS. -/

namespace Sys2Proof.Machine

/-- Settles O13: by the cases of a step; a fault is raised only where a command is accepted, so from FCODE 0. -/
theorem onlyResetClearsFcode : Obligations.OnlyResetClearsFcode := by
  refine ⟨fun _ _ => rfl, fun s t h => ?_⟩
  obtain ⟨i, _, h0, he⟩ | ⟨c, _, h0, rfl⟩ | ⟨_, _, _, _, rfl⟩ | ⟨hreset, _, rfl⟩ := step_cases h
  · exact (exec_fcode he).imp_right fun hf => .inl ⟨h0, hf⟩
  · exact .inr (.inl ⟨h0, c, rfl⟩)
  · exact .inl rfl
  · exact .inr (.inr ⟨hreset, rfl⟩)

/-- Settles O40: a command appends its own events, which do not depend on the trace, and of the rest only a reset writes it. -/
theorem traceIsOnlyAppended : Obligations.TraceIsOnlyAppended := by
  refine ⟨fun _ _ => rfl, fun s p d => ⟨by cases p <;> rfl, rfl, rfl, rfl⟩, fun i s t => exec_withTrace, fun s t h hno => ?_⟩
  obtain ⟨i, _, -, he⟩ | ⟨_, _, -, rfl⟩ | ⟨_, _, _, _, rfl⟩ | ⟨hreset, -⟩ := step_cases h
  · obtain ⟨ev, hev, -⟩ := exec_withTrace he
    exact ⟨ev, hev⟩
  · exact ⟨[], (List.append_nil _).symm⟩
  · exact ⟨[], (List.append_nil _).symm⟩
  · exact absurd hreset hno

/-- Settles O44: by the cases of a step; no command clears INIT, and only the command INIT sets it. -/
theorem onlyResetClearsInit : Obligations.OnlyResetClearsInit := by
  refine ⟨fun _ _ => rfl, fun s t h => ?_, fun i s t => exec_keeps_init, fun s t h hi => ?_⟩
  · cases h
    rfl
  · obtain ⟨i, _, -, he⟩ | ⟨_, _, -, rfl⟩ | ⟨_, _, _, _, rfl⟩ | ⟨hreset, -⟩ := step_cases h
    · exact .inl (exec_keeps_init he hi)
    · exact .inl hi
    · exact .inl hi
    · exact .inr hreset

/-- Settles O47: the fields of State.create. -/
theorem resetTable : Obligations.ResetTable :=
  ⟨rfl, fun _ _ => ⟨rfl, rfl, rfl, rfl, rfl, rfl, rfl, rfl, rfl⟩⟩

/-- Settles O49: the read records STATUS as it was before it, and the word has each field at its place. -/
theorem statusLayout : Obligations.StatusLayout := by
  intro s rest hc hr
  obtain ⟨hinit, hbrv, hackv, hack, hrv⟩ := statusWord_flags s
  refine ⟨statusWord s, if s.ackv then none else some .lastAck, step_serve hc hr, hinit, hbrv, hackv, fun ha => ?_, hrv,
    statusWord_fcode s⟩
  rw [hack, statusAck_of_ackv ha]

end Sys2Proof.Machine
end

section
/-! CLAIMS. The encoding (spec 30): the worked encodings. -/

namespace Sys2Proof.Machine

/-- Settles O1: the words and operands of each row of the R84 table are numerals, on which the decoder and the assembler compute. -/
theorem workedEncodings : Obligations.WorkedEncodings :=
  ⟨⟨rfl, rfl⟩, ⟨rfl, rfl⟩, ⟨rfl, rfl⟩, ⟨rfl, rfl⟩, ⟨rfl, rfl⟩, ⟨rfl, rfl⟩, ⟨rfl, rfl⟩, ⟨rfl, rfl⟩, ⟨rfl, rfl⟩⟩

end Sys2Proof.Machine
end

section
/-! SUPPORT. Event counts (70 R244): they add up along a list of events; those of a byte; and the check of the pin commands. -/

namespace Sys2Proof.Machine

/-- The counts of two lists of events together. -/
def Counts.add (x y : Counts) : Counts := ⟨x.dirLessAcks + y.dirLessAcks, x.dly + y.dly, x.rd + y.rd, x.wr + y.wr⟩

/-- The counts of k lists of events that have the counts x each. -/
def Counts.times (k : Nat) (x : Counts) : Counts := ⟨k * x.dirLessAcks, k * x.dly, k * x.rd, k * x.wr⟩

theorem countsOf_append (xs ys : List Event) : countsOf (xs ++ ys) = (countsOf xs).add (countsOf ys) := by
  simp only [countsOf, Counts.add, List.countP_append, Nat.cast_add, add_sub_add_comm]

/-- Lists of events that all have the same counts. -/
theorem countsOf_flatMap {α : Type} {f : α → List Event} {x : Counts} (h : ∀ a, countsOf (f a) = x) (l : List α) :
    countsOf (l.flatMap f) = x.times l.length := by
  induction l with
  | nil => simp [countsOf, Counts.times]
  | cons a l ih =>
    rw [List.flatMap_cons, countsOf_append, h, ih]
    simp [Counts.add, Counts.times, add_mul, add_comm]

theorem countsOf_bitEvents (n : Nat) (v : Bool) : countsOf (bitEvents n v) = ⟨3, 3, 0, 0⟩ := rfl

/-- The events of the acknowledgment phase with draw a (40 R103, R104). -/
def ackEvents (n : Nat) (a : Level) : List Event :=
  [.dir .clk .output, .dir .dio .input, .dly n, .dir .clk .input, .dly n, .rdDio a]
    ++ holdEvents a ++ [.dly n, .dir .clk .output, .dly n]

/-- A byte is its eight bit periods, then the acknowledgment phase. -/
theorem byteEvents_eq (n : Nat) (b : Byte) (a : Level) :
    byteEvents n b a = (List.range 8).flatMap (fun i => bitEvents n (b.getLsbD i)) ++ ackEvents n a := by
  simp only [byteEvents, ackEvents, List.append_assoc]

/-- The hold of a low acknowledgment is the one DIR event that a low draw adds. -/
theorem countsOf_ackEvents (n : Nat) (a : Level) : countsOf (ackEvents n a) = ⟨4, 4, 1, 0⟩ := by
  cases a <;> rfl

theorem countsOf_byteEvents (n : Nat) (b : Byte) (a : Level) : countsOf (byteEvents n b a) = ⟨28, 28, 1, 0⟩ := by
  rw [byteEvents_eq, countsOf_append, countsOf_flatMap (fun i => countsOf_bitEvents n (b.getLsbD i)), countsOf_ackEvents]
  rfl

/-- After INIT no check of a pin command fails (60 R206). -/
theorem firstFailing_pinChecks {s : State} (h : s.init = true) : firstFailing (pinChecks s) = none := by
  simp [pinChecks, firstFailing_cons, h, firstFailing]

end Sys2Proof.Machine
end

section
/-! CLAIMS. The protocol (spec 40): WRBYTE and BITDLY. -/

namespace Sys2Proof.Machine

/-- Settles O21: after INIT the command has its effect, which is WriteByte(b); the counts add up over bits and acknowledgment. -/
theorem wrbyteSendsTheByte : Obligations.WrbyteSendsTheByte := by
  intro b s hinit
  refine ⟨?_, fun n a => countsOf_byteEvents n b a⟩
  calc exec (.wrbyte b) s
      = .next (writeByte b s).2 := exec_of_checks (firstFailing_pinChecks hinit)
    _ = .next (afterByte b s) := by rw [writeByte_eq]

/-- Settles O18: the command has no check, and its effect is one Delay(). -/
theorem bitdlyEmitsOneDelay : Obligations.BitdlyEmitsOneDelay :=
  fun _ => exec_of_checks rfl

end Sys2Proof.Machine
end

section
/-! SUPPORT. The checks of a display update said on numbers: each of them fails exactly where the well-formedness test of
60 R210 does; and the segment bytes of DATA as quotients (20 R56). -/

namespace Sys2Proof.Machine

theorem badLength_eq_not_lenInRange (len : BitVec 3) : badLength len = !lenInRange len := by
  revert len
  decide

theorem badRange_eq_not_posInRange (pos : BitVec 2) (len : BitVec 3) : badRange pos len = !posInRange pos len := by
  rw [badRange, posInRange, ← decide_not]
  exact decide_eq_decide.mpr not_le.symm

/-- A word has a bit at or above place n exactly when it is 2 ^ n or more. -/
theorem and_allOnes_shiftLeft_eq_zero_iff {w : Nat} (x : BitVec w) (n : Nat) :
    x &&& BitVec.allOnes w <<< n = 0#w ↔ x.toNat < 2 ^ n := by
  have hle : x.toNat / 2 ^ n * 2 ^ n < 2 ^ w := (Nat.div_mul_le_self _ _).trans_lt x.isLt
  rw [← BitVec.shiftLeft_ushiftRight, BitVec.toNat_eq, BitVec.toNat_shiftLeft, BitVec.toNat_ushiftRight, Nat.shiftLeft_eq,
    Nat.shiftRight_eq_div_pow, Nat.mod_eq_of_lt hle]
  simp

/-- The mask over DATA holds the places above its LEN segment bytes (30 R76). -/
theorem badSegData_eq_not_dataFits (len : BitVec 3) (data : Word) : badSegData len data = !dataFits len data := by
  have hclear : data &&& reservedSegData len = 0#32 ↔ data.toNat < 256 ^ len.toNat := by
    rw [show 256 = 2 ^ 8 from rfl, ← Nat.pow_mul]
    exact and_allOnes_shiftLeft_eq_zero_iff data (8 * len.toNat)
  rw [badSegData, dataFits, bne, beq_eq_decide, decide_eq_decide.mpr hclear]

/-- With INIT and BRV set no state check of a display update fails (60 R206, R207). -/
theorem firstFailing_updateChecks {s : State} (hinit : s.init = true) (hbrv : s.brv = true) :
    firstFailing (updateChecks s) = none := by
  simp [updateChecks, firstFailing_cons, hinit, hbrv, firstFailing]

/-- No check of a well-formed WRSEG fails once INIT and BRV are set (60 R210). -/
theorem firstFailing_wrsegChecks {pos : BitVec 2} {len : BitVec 3} {data : Word} {s : State}
    (hwf : (Instr.wrseg pos len data).wellFormed = true) (hinit : s.init = true) (hbrv : s.brv = true) :
    firstFailing (wrsegChecks pos len data s) = none := by
  simp only [Instr.wellFormed, Bool.and_eq_true] at hwf
  obtain ⟨⟨hlen, hdata⟩, hpos⟩ := hwf
  simp [wrsegChecks, firstFailing_cons, badLength_eq_not_lenInRange, badSegData_eq_not_dataFits, badRange_eq_not_posInRange,
    hlen, hdata, hpos, firstFailing_updateChecks hinit hbrv]

theorem segByte_eq_data8 (data : Word) (k : Nat) : segByte data k = BitVec.ofNat 8 (data8 data k) := by
  apply BitVec.eq_of_toNat_eq
  simp [segByte, data8, Nat.shiftRight_eq_div_pow, Nat.pow_mul]

theorem segBytes_eq_data8 (data : Word) (L : Nat) :
    segBytes data L = (List.range L).map (fun k => BitVec.ofNat 8 (data8 data k)) :=
  List.map_congr_left fun k _ => segByte_eq_data8 data k

end Sys2Proof.Machine
end

section
/-! CLAIMS. The framing (spec 41): WRSEG. -/

namespace Sys2Proof.Machine

/-- Settles O22: no check fails, so the command has its effect, which is WriteFrame of the segment bytes of DATA. -/
theorem wrsegSendsTheUpdate : Obligations.WrsegSendsTheUpdate := by
  intro pos len data s hwf hinit hbrv
  calc exec (.wrseg pos len data) s
      = .next (writeFrame (segBytes data len.toNat) pos s) := exec_of_checks (firstFailing_wrsegChecks hwf hinit hbrv)
    _ = .next (afterUpdate ((List.range len.toNat).map (fun k => BitVec.ofNat 8 (data8 data k))) pos s) := by
      rw [writeFrame_eq, segBytes_eq_data8]

end Sys2Proof.Machine
end

section
/-! SUPPORT. The glyph table and the inverse of it (42 R169, R170); the checks of SHOWBASE said on numbers (60 R210); and the frame
of a SHOW command as the bytes of frameShown, with what overflow does to them (42 R162). -/

namespace Sys2Proof.Machine

/-- The glyph check as a property of the table (42 R170, 92 D5). -/
theorem glyphsOk_iff (c : Config) :
    glyphsOk c = true ↔
      c.glyph.toList.Nodup ∧ ∀ g ∈ c.glyph.toList, g ≠ 0x00#8 ∧ g ≠ c.minusGlyph ∧ g.getLsbD 7 = false := by
  simp only [glyphsOk, Bool.and_eq_true, distinct_iff, List.all_eq_true, bne_iff_ne, Bool.not_eq_true', and_assoc]

/-- Looking a digit up and reading the byte back is the identity on digits (42 R169). -/
theorem readDigit_glyph {c : Config} (hok : glyphsOk c = true) (d : Nat) (hd : d < 16) : readDigit c c.glyph[d] = some d := by
  obtain ⟨hnodup, hentry⟩ := (glyphsOk_iff c).mp hok
  have hne : c.glyph[d] ≠ 0x00#8 := (hentry _ (by simp)).1
  rw [readDigit, if_neg hne, List.findIdx?_eq_some_iff_getElem]
  refine ⟨by simpa using hd, by simp, fun j hj => ?_⟩
  have hlen : c.glyph.toList.length = 16 := by simp
  have hdistinct : c.glyph.toList[j] ≠ c.glyph.toList[d] := fun h => hj.ne (hnodup.getElem_inj_iff.mp h)
  simpa using hdistinct

theorem readDigit_blank (c : Config) : readDigit c 0x00#8 = some 0 := if_pos rfl

/-- Each position of a frame in a base 2 to 16 reads back as its digit (42 R169): a digit's glyph does, and a blank stands only where
the digit is 0. -/
theorem readDigit_shownByte {c : Config} (hok : glyphsOk c = true) (base mag : Nat) (lz : Bool) (L i : Nat) (h2 : 2 ≤ base)
    (h16 : base ≤ 16) : readDigit c (shownByte c base mag lz L i) = some (mag / base ^ (L - 1 - i) % base) := by
  unfold shownByte
  split_ifs with hzero hlast hdigit hminus
  · rw [readDigit_glyph hok, hzero.1, Nat.zero_div, Nat.zero_mod]
  · rw [readDigit_blank, hzero.1, Nat.zero_div, Nat.zero_mod]
  · have hd : mag / base ^ (L - 1 - i) % base < 16 := (Nat.mod_lt _ (by omega)).trans_le h16
    simp only [Int.natAbs_natCast, Nat.mod_eq_of_lt hd, readDigit_glyph hok _ hd]
  · omega
  · have hq : mag / base ^ (L - 1 - i) = 0 := by
      by_contra hq
      exact hdigit (.inl hq)
    rw [readDigit_blank, hq, Nat.zero_mod]

/-- With no dots a position shows its byte alone (42 R163). -/
theorem frameShown_noDots (c : Config) (b : Int) (mag : Nat) (lz : Bool) (L i : Nat) :
    frameShown c b mag 0x00#8 lz L i = shownByte c b mag lz L i := by
  simp [frameShown, dotLit]

/-- The low n digits determine the digit at each place below n. -/
theorem digit_mod_pow (b m : Nat) {k n : Nat} (h : k < n) : m % b ^ n / b ^ k % b = m / b ^ k % b := by
  have hpow : b ^ n = b ^ k * b ^ (n - k) := by rw [← pow_add, Nat.add_sub_cancel' h.le]
  rw [hpow, Nat.mod_mul_right_div_self, Nat.mod_mod_of_dvd _ (dvd_pow_self b (by omega))]

/-- A position of a frame that overflows shows what the remainder shows there with zeros (42 R162): every quotient is still not 0, so
no position is suppressed, and the digits below base^L are those of the remainder. -/
theorem frameShown_overflow (c : Config) (b : Int) (mag : Nat) (dots : Byte) (lz : Bool) {L i : Nat} (hb : 0 < b.natAbs)
    (hi : i < L) (hover : b.natAbs ^ L ≤ mag) :
    frameShown c b mag dots lz L i = frameShown c b (mag % b.natAbs ^ L) dots true L i := by
  have hmag : mag ≠ 0 := ((Nat.pow_pos hb).trans_le hover).ne'
  have hquot : mag / b.natAbs ^ (L - 1 - i) ≠ 0 :=
    (Nat.div_pos ((Nat.pow_le_pow_right hb (by omega)).trans hover) (Nat.pow_pos hb)).ne'
  have hdot : dotLit c mag dots lz i = dotLit c (mag % b.natAbs ^ L) dots true i := by simp [dotLit, hmag]
  have hbyte : shownByte c b mag lz L i = shownByte c b (mag % b.natAbs ^ L) true L i := by
    have hzero : ¬ (mag = 0 ∧ lz = false) := fun h => hmag h.1
    have hzeros : ¬ (mag % b.natAbs ^ L = 0 ∧ true = false) := fun h => Bool.noConfusion h.2
    rw [shownByte, shownByte, if_neg hzero, if_neg hzeros, if_pos (.inl hquot), if_pos (.inr rfl)]
    simp only [digit_mod_pow b.natAbs mag (show L - 1 - i < L by omega)]
  rw [frameShown, frameShown, hdot, hbyte]

/-- The encoder's bytes are what frameShown says, position by position (42 R165). -/
theorem numeralBytes_eq_frameShown (c : Config) (b : Int) (mag : Nat) (dots : Byte) (lz : Bool) {L : Nat} (h1 : 1 ≤ L)
    (h8 : L ≤ 8) : numeralBytes c b mag dots lz L = (List.range L).map (frameShown c b mag dots lz L) := by
  apply List.ext_getElem?
  intro i
  by_cases hi : i < L
  · simp [numeralBytes_get c b mag dots lz L i hi (by omega), hi]
  · simp [numeralBytes_length c b mag dots lz L h1, hi]

/-- Overflow is silent (42 R162): the SHOW commands' effect is that of the remainder with zeros shown. -/
theorem showNumber_overflow (b : Int) (mag : Nat) (dots : Byte) (lz : Bool) (len : BitVec 3) (pos : BitVec 2) (s : State)
    (hb : 0 < b.natAbs) (h1 : 1 ≤ len.toNat) (h4 : len.toNat ≤ 4) (hover : b.natAbs ^ len.toNat ≤ mag) :
    showNumber b mag dots lz len pos s = showNumber b (mag % b.natAbs ^ len.toNat) dots true len pos s := by
  have hbytes : numeralBytes s.config b mag dots lz len.toNat =
      numeralBytes s.config b (mag % b.natAbs ^ len.toNat) dots true len.toNat := by
    rw [numeralBytes_eq_frameShown _ _ _ _ _ h1 (by omega), numeralBytes_eq_frameShown _ _ _ _ _ h1 (by omega)]
    exact List.map_congr_left fun i hi => frameShown_overflow _ _ _ _ _ hb (List.mem_range.mp hi) hover
  rw [showNumber_eq _ _ _ _ _ _ _ h1 h4, showNumber_eq _ _ _ _ _ _ _ h1 h4, hbytes]

/-- A byte of FRAME that an encode sets (42 R164). -/
theorem setFrame_frame_getElem {seg : List Byte} {g : Byte} (s : State) {i : Nat} (h : i < 4) (hg : seg[i]? = some g) :
    (setFrame seg s).frame[i] = g := by
  have hbyte : frameByte seg s.stream s.freeCount i = g := by rw [frameByte, hg]
  interval_cases i <;> exact hbyte

/-- The effect the SHOW commands share, said on the frame (42 R166): FRAME[0..LEN-1] and the bytes sent are what frameShown says,
and nothing else changes but FRAME past LEN and the model's own counter. -/
theorem showNumber_shows (b : Int) (mag : Nat) (dots : Byte) (lz : Bool) (len : BitVec 3) (pos : BitVec 2) (s : State)
    (h1 : 1 ≤ len.toNat) (h4 : len.toNat ≤ 4) :
    ∃ f : Vector Byte 4,
      (∀ (i : Nat) (h : i < 4), i < len.toNat → f[i] = frameShown s.config b mag dots lz len.toNat i) ∧
      showNumber b mag dots lz len pos s =
        afterUpdate ((List.range len.toNat).map (frameShown s.config b mag dots lz len.toNat)) pos
          { s with frame := f, freeCount := s.freeCount + 4 } := by
  refine ⟨(setFrame (numeralBytes s.config b mag dots lz len.toNat) s).frame, fun i h hi => ?_, ?_⟩
  · exact setFrame_frame_getElem s h (numeralBytes_get _ _ _ _ _ _ i hi (by omega))
  · rw [showNumber_eq _ _ _ _ _ _ _ h1 h4, ← numeralBytes_eq_frameShown _ _ _ _ _ h1 (by omega)]
    rfl

/-- Two effects behind the same checks give the same result if they agree where no check fails (60 R201). -/
theorem guarded_congr {checks : List (FaultCode × Bool)} {e₁ e₂ : State → State} {s : State}
    (h : firstFailing checks = none → e₁ s = e₂ s) : guarded checks e₁ s = guarded checks e₂ s := by
  unfold guarded
  cases hc : firstFailing checks with
  | some c => rfl
  | none => rw [h hc]

/-- No check fails exactly when the condition of none holds. -/
theorem firstFailing_eq_none_iff (checks : List (FaultCode × Bool)) :
    firstFailing checks = none ↔ ∀ check ∈ checks, check.2 = false := by
  induction checks with
  | nil => simp [firstFailing]
  | cons check rest ih =>
    obtain ⟨c, fails⟩ := check
    cases fails <;> simp [firstFailing_cons, ih]

theorem lenInRange_iff (len : BitVec 3) : lenInRange len = true ↔ 1 ≤ len.toNat ∧ len.toNat ≤ 4 := by
  simp [lenInRange]

theorem baseInRange_iff (base : BitVec 8) : baseInRange base = true ↔ 2 ≤ base.toInt.natAbs ∧ base.toInt.natAbs ≤ 36 := by
  simp [baseInRange]

theorem badBase_eq_not_baseInRange (base : BitVec 8) : badBase base = !baseInRange base := by
  rw [badBase, signedBase, baseInRange, Bool.not_and, ← decide_not, ← decide_not]
  simp only [not_le]

/-- No check of SHOWBASE fails exactly when it is well formed and INIT and BRV are set (60 R210). -/
theorem firstFailing_showBaseChecks_eq_none_iff (base : BitVec 8) (len : BitVec 3) (pos : BitVec 2) (s : State) :
    firstFailing (showBaseChecks base pos len s) = none ↔
      ((lenInRange len = true ∧ posInRange pos len = true) ∧ baseInRange base = true) ∧ s.init = true ∧ s.brv = true := by
  simp [firstFailing_eq_none_iff, showBaseChecks, updateChecks, badLength_eq_not_lenInRange, badRange_eq_not_posInRange,
    badBase_eq_not_baseInRange, and_assoc]

end Sys2Proof.Machine
end

section
/-! CLAIMS. The numerals (spec 42): ENCDIG, SHOWBASE, the round trip, overflow and the default glyph table. -/

namespace Sys2Proof.Machine

/-- Settles O25: no check fails, so the command has the effect the SHOW commands share. -/
theorem showbaseShowsTheNumeral : Obligations.ShowbaseShowsTheNumeral := by
  intro base value dots lz len pos s hwf hinit hbrv
  simp only [Instr.wellFormed, Bool.and_eq_true] at hwf
  obtain ⟨⟨hlen, hpos⟩, hbase⟩ := hwf
  obtain ⟨h1, h4⟩ := (lenInRange_iff len).mp hlen
  obtain ⟨f, hframe, hshow⟩ := showNumber_shows base.toInt value.toNat dots lz len pos s h1 h4
  refine ⟨f, hframe, ?_⟩
  rw [← hshow]
  exact exec_of_checks ((firstFailing_showBaseChecks_eq_none_iff base len pos s).mpr ⟨⟨⟨hlen, hpos⟩, hbase⟩, hinit, hbrv⟩)

/-- Settles O29: SHOWBASE shows the numeral, each byte of which reads back as its digit; what lies above the four positions does not
matter, so the bound on the magnitude is not used. -/
theorem numeralRoundTrip : Obligations.NumeralRoundTrip := by
  intro base value lz s hinit hbrv hok h2 h16 _
  have hbase : base.toInt = base.toNat := BitVec.toInt_eq_toNat_of_lt (by omega)
  have hwf : (Instr.showbase base value 0x00#8 lz 4#3 0#2).wellFormed = true := by
    have hrange : baseInRange base = true := (baseInRange_iff base).mpr (by omega)
    simp [Instr.wellFormed, lenInRange, posInRange, hrange]
  obtain ⟨f, hframe, hexec⟩ := showbaseShowsTheNumeral base value 0x00#8 lz 4#3 0#2 s hwf hinit hbrv
  refine ⟨_, hexec, fun i hi => ?_⟩
  calc readDigit s.config f[i]
      = readDigit s.config (shownByte s.config base.toNat value.toNat lz 4 i) := by
        rw [hframe i hi hi, frameShown_noDots, hbase]
        rfl
    _ = some (value.toNat / base.toNat ^ (3 - i) % base.toNat) := readDigit_shownByte hok _ _ _ _ _ h2 h16

/-- Settles O31: the checks do not read the magnitude, and where none fails overflow is silent. -/
theorem overflowDropsHighDigits : Obligations.OverflowDropsHighDigits := by
  intro base value dots lz len pos s hover
  have hrem : (BitVec.ofNat 16 (value.toNat % base.toInt.natAbs ^ len.toNat)).toNat =
      value.toNat % base.toInt.natAbs ^ len.toNat :=
    (BitVec.toNat_ofNat _ _).trans (Nat.mod_eq_of_lt ((Nat.mod_le _ _).trans_lt value.isLt))
  rw [exec_eq, exec_eq]
  refine guarded_congr fun hc => ?_
  obtain ⟨⟨⟨hlen, -⟩, hbase⟩, -⟩ := (firstFailing_showBaseChecks_eq_none_iff base len pos s).mp hc
  obtain ⟨h1, h4⟩ := (lenInRange_iff len).mp hlen
  have hb : 0 < base.toInt.natAbs := two_pos.trans_le ((baseInRange_iff base).mp hbase).1
  calc showNumber base.toInt value.toNat dots lz len pos s
      = showNumber base.toInt (value.toNat % base.toInt.natAbs ^ len.toNat) dots true len pos s :=
        showNumber_overflow _ _ _ _ _ _ _ hb h1 h4 hover
    _ = showNumber base.toInt (BitVec.ofNat 16 (value.toNat % base.toInt.natAbs ^ len.toNat)).toNat dots true len pos s := by
        rw [hrem]

/-- Settles O24: the command has no check, and its lookup masks the digit. -/
theorem encdigStoresTheGlyph : Obligations.EncdigStoresTheGlyph :=
  ⟨fun _ _ => exec_of_checks rfl, fun c d => ⟨rfl, by simp only [encodeDigit, Nat.mod_mod]⟩⟩

/-- Settles O32: the table is 16 numerals, and its properties are those the glyph check asks for. -/
theorem defaultGlyphsAreDistinct : Obligations.DefaultGlyphsAreDistinct := by
  have hnodup : Config.defaultGlyph.toList.Nodup := by decide
  have hentry : ∀ g ∈ Config.defaultGlyph.toList, g ≠ 0x00#8 ∧ g ≠ 0x40#8 ∧ g.getLsbD 7 = false := by decide
  exact ⟨hnodup, hentry, (glyphsOk_iff Config.initial).mpr ⟨hnodup, hentry⟩⟩

end Sys2Proof.Machine
end

section
/-! CLAIMS. The session (spec 43): INIT. -/

namespace Sys2Proof.Machine

/-- InitProc() in one update (43 R191). -/
theorem initProc_eq (s : State) :
    initProc s = { s with
      clkDir := .known .input, dioDir := .known .input, init := true, trace := s.trace ++ commandEvents .init s } := by
  simp [initProc, writePinLow, setDir, setDirReg, emit, commandEvents]

/-- The fields INIT writes hold constants after it, so that a second INIT only adds its events. -/
theorem initProc_initProc (s : State) :
    initProc (initProc s) = { initProc s with trace := (initProc s).trace ++ commandEvents .init s } := by
  rw [initProc_eq (initProc s), initProc_eq s]
  rfl

/-- Settles O16: the command has no check, so each INIT has its effect. -/
theorem initIsIdempotent : Obligations.InitIsIdempotent := by
  intro s t h
  obtain rfl : initProc s = t := Host.Outcome.next.inj ((exec_of_checks rfl).symm.trans h)
  calc exec .init (initProc s)
      = .next (initProc (initProc s)) := exec_of_checks rfl
    _ = .next { initProc s with trace := (initProc s).trace ++ commandEvents .init s } := by rw [initProc_initProc]

end Sys2Proof.Machine
end

section
/-! SUPPORT. The checks of 60 R210: a command's own as operand checks before session checks, and the fault of a pair of words as
the first failing check of one list over the fields of CMD. -/

namespace Sys2Proof.Machine

/-- The checks of a command on its operands (60 R203 to R205, R209). -/
def operandChecks : Instr → List (FaultCode × Bool)
  | .wrseg pos len data =>
    [(.badLength, badLength len), (.reservedField, badSegData len data), (.badRange, badRange pos len)]
  | .showbase base _ _ _ len pos =>
    [(.badLength, badLength len), (.badRange, badRange pos len), (.badBase, badBase base)]
  | .showdec _ _ _ len pos => [(.badLength, badLength len), (.badRange, badRange pos len)]
  | .showhex _ _ _ len pos => [(.badLength, badLength len), (.badRange, badRange pos len)]
  | _ => []

/-- The checks of a command on the session state (60 R206, R207). -/
def sessionChecks (i : Instr) (s : State) : List (FaultCode × Bool) :=
  [(.notInitialized, needsInit i && !s.init), (.brightnessUnset, needsBrightness i && !s.brv)]

/-- Checks 2 to 5 of 60 R210 for a pair of words that selects i, on the fields of CMD. -/
def pairChecks (i : Instr) (cmd data : Word) : List (FaultCode × Bool) :=
  [(.badLength, carriesLength i.op && badLength (lenField cmd)),
    (.reservedField, !reservedClear cmd data),
    (.badRange, carriesLength i.op && badRange (posField cmd) (lenField cmd)),
    (.badBase, i.op == 0x7#4 && badBase (baseField cmd))]

theorem firstFailing_append (xs ys : List (FaultCode × Bool)) :
    firstFailing (xs ++ ys) = (firstFailing xs).or (firstFailing ys) := by
  induction xs with
  | nil => rfl
  | cons check rest ih =>
    obtain ⟨c, fails⟩ := check
    cases fails
    · exact ih
    · rfl

/-- The session checks come last: they decide where no operand check fails. -/
theorem firstFailing_commandChecks (i : Instr) (s : State) :
    firstFailing (commandChecks i s) = (firstFailing (operandChecks i)).or (firstFailing (sessionChecks i s)) := by
  rw [← firstFailing_append]
  cases i with
  | init | setbr | encdig | bitdly | wrseg | showbase | showdec | showhex | clear => rfl
  | start | stop | wrbyte =>
    simp [commandChecks, operandChecks, sessionChecks, pinChecks, needsInit, needsBrightness, firstFailing_cons]

/-- The operand checks are those of well-formedness. -/
theorem firstFailing_operandChecks_eq_none_iff (i : Instr) :
    firstFailing (operandChecks i) = none ↔ i.wellFormed = true := by
  rw [firstFailing_eq_none_iff]
  cases i with
  | wrseg | showbase | showdec | showhex =>
    simp [operandChecks, Instr.wellFormed, badLength_eq_not_lenInRange, badSegData_eq_not_dataFits,
      badRange_eq_not_posInRange, badBase_eq_not_baseInRange, and_assoc]
  | init | setbr | start | stop | wrbyte | encdig | clear | bitdly => simp [operandChecks, Instr.wellFormed]

/-- A well-formed command fails at most a session check (60 R206, R207). -/
theorem firstFailing_commandChecks_of_wellFormed {i : Instr} (hwf : i.wellFormed = true) (s : State) :
    firstFailing (commandChecks i s) = firstFailing (sessionChecks i s) := by
  rw [firstFailing_commandChecks, (firstFailing_operandChecks_eq_none_iff i).mpr hwf, Option.none_or]

/-- Every display update is a pin command. -/
theorem needsBrightness_of_not_needsInit {i : Instr} (h : needsInit i = false) : needsBrightness i = false := by
  cases i with
  | init | setbr | encdig | bitdly => rfl
  | start | stop | wrbyte | wrseg | showbase | showdec | showhex | clear => cases h

/-! The fields of CMD as numbers (30 R71). -/

theorem opField_toNat (cmd : Word) : (opField cmd).toNat = cmd.toNat % 16 := by
  simp [opField]

theorem posField_toNat (cmd : Word) : (posField cmd).toNat = cmd.toNat / 16 % 4 := by
  simp [posField, Nat.shiftRight_eq_div_pow]

theorem lenField_toNat (cmd : Word) : (lenField cmd).toNat = cmd.toNat / 64 % 8 := by
  simp [lenField, Nat.shiftRight_eq_div_pow]

theorem baseField_toNat (cmd : Word) : (baseField cmd).toNat = cmd.toNat / 2 ^ 24 := by
  have := cmd.isLt
  simp [baseField, Nat.shiftRight_eq_div_pow]
  omega

theorem toInt_eq_signed8 (x : BitVec 8) : x.toInt = signed8 x.toNat := by
  rw [BitVec.toInt_eq_toNat_cond, signed8]
  split_ifs <;> omega

/-- The OP a pair is selected by is the OP of the command (30 R70). -/
theorem opField_of_select {cmd data : Word} {i : Instr} (h : select cmd data = some i) : opField cmd = i.op := by
  apply BitVec.eq_of_toNat_eq
  unfold select at h
  split at h <;> cases h <;> assumption

theorem select_eq_none_iff (cmd data : Word) : select cmd data = none ↔ cmd.toNat % 16 = 0 ∨ 13 ≤ cmd.toNat % 16 := by
  rw [← opField_toNat]
  unfold select
  match (opField cmd).toNat with
  | 0 | 1 | 2 | 3 | 4 | 5 | 6 | 7 | 8 | 9 | 10 | 11 | 12 => simp
  | n + 13 => simp

/-- The masks of 30 R76 as numbers. -/
theorem reservedMasks_eq (op : BitVec 4) (len : BitVec 3) :
    reservedMasks op.toNat len.toNat = ((reservedCmd op).toNat, (reservedData op len).toNat) := by
  revert op len
  decide

theorem and_eq_zero_iff_toNat {w : Nat} (x y : BitVec w) : x &&& y = 0#w ↔ x.toNat &&& y.toNat = 0 := by
  rw [BitVec.toNat_eq, BitVec.toNat_and]
  simp

/-! The conditions of 60 R203 to R205 and R209 as the rules say them, over those numbers. -/

theorem badLength_lenField_iff (cmd : Word) :
    badLength (lenField cmd) = true ↔ ¬ (1 ≤ cmd.toNat / 64 % 8 ∧ cmd.toNat / 64 % 8 ≤ 4) := by
  rw [badLength_eq_not_lenInRange, Bool.not_eq_true', ← Bool.not_eq_true, lenInRange_iff, lenField_toNat]

theorem reservedClear_eq_false_iff (cmd data : Word) :
    reservedClear cmd data = false ↔
      cmd.toNat &&& (reservedMasks (cmd.toNat % 16) (cmd.toNat / 64 % 8)).1 ≠ 0 ∨
        data.toNat &&& (reservedMasks (cmd.toNat % 16) (cmd.toNat / 64 % 8)).2 ≠ 0 := by
  rw [← opField_toNat, ← lenField_toNat, reservedMasks_eq, ← Bool.not_eq_true, ← not_and_or]
  simp only [reservedClear, Bool.and_eq_true, beq_iff_eq, and_eq_zero_iff_toNat]

theorem badRange_fields_iff (cmd : Word) :
    badRange (posField cmd) (lenField cmd) = true ↔ 4 < cmd.toNat / 16 % 4 + cmd.toNat / 64 % 8 := by
  rw [← posField_toNat, ← lenField_toNat]
  exact decide_eq_true_iff

theorem badBase_baseField_iff (cmd : Word) :
    badBase (baseField cmd) = true ↔
      ¬ (2 ≤ (signed8 (cmd.toNat / 2 ^ 24)).natAbs ∧ (signed8 (cmd.toNat / 2 ^ 24)).natAbs ≤ 36) := by
  rw [badBase_eq_not_baseInRange, Bool.not_eq_true', ← Bool.not_eq_true, baseInRange_iff, toInt_eq_signed8, baseField_toNat]

/-! The commands each check is about, by OP. -/

/-- The commands that carry LEN (30 R71). -/
theorem carriesLength_iff (i : Instr) :
    carriesLength i.op = true ↔ i.op.toNat = 6 ∨ i.op.toNat = 7 ∨ i.op.toNat = 8 ∨ i.op.toNat = 9 := by
  cases i <;> simp [Instr.op, carriesLength]

/-- The pin commands (60 R206). -/
theorem needsInit_iff (i : Instr) :
    needsInit i = true ↔
      i.op.toNat = 3 ∨ i.op.toNat = 4 ∨ i.op.toNat = 5 ∨ carriesLength i.op = true ∨ i.op.toNat = 11 := by
  cases i <;> simp [Instr.op, needsInit, carriesLength]

/-- The display updates (60 R207). -/
theorem needsBrightness_iff (i : Instr) :
    needsBrightness i = true ↔ carriesLength i.op = true ∨ i.op.toNat = 11 := by
  cases i <;> simp [Instr.op, needsBrightness, carriesLength]

/-- The list of 60 R210 for a pair that selects no command: ILLEGAL_OP. -/
theorem faultOf_of_select_none {cmd data : Word} (h : select cmd data = none) (s : State) :
    faultOf cmd data s = some .illegalOp :=
  if_pos ((select_eq_none_iff cmd data).mp h)

/-- The list of 60 R210 for a pair that selects a command: the checks of the pair, then those on the session. -/
theorem faultOf_of_select {cmd data : Word} {i : Instr} (h : select cmd data = some i) (s : State) :
    faultOf cmd data s = firstFailing (pairChecks i cmd data ++ sessionChecks i s) := by
  have hlegal : ¬ (cmd.toNat % 16 = 0 ∨ 13 ≤ cmd.toNat % 16) := by simp [← select_eq_none_iff cmd data, h]
  have hop : cmd.toNat % 16 = i.op.toNat := by rw [← opField_toNat, opField_of_select h]
  have hshowbase : (i.op == 0x7#4) = true ↔ i.op.toNat = 7 := by
    rw [beq_iff_eq, BitVec.toNat_eq]
    rfl
  rw [faultOf, if_neg hlegal]
  simp only [pairChecks, sessionChecks, List.cons_append, List.nil_append, firstFailing_cons, firstFailing, Bool.and_eq_true,
    Bool.not_eq_true', badLength_lenField_iff, reservedClear_eq_false_iff, badRange_fields_iff, badBase_baseField_iff, hshowbase,
    needsInit_iff, needsBrightness_iff, carriesLength_iff, hop]

/-- WRSEG's own check for reserved bits is the decoder's (30 R76). -/
theorem badSegData_of_reservedClear {cmd data : Word} (hop : opField cmd = 0x6#4) (hclear : reservedClear cmd data = true) :
    badSegData (lenField cmd) data = false := by
  simp only [reservedClear, hop, Bool.and_eq_true, beq_iff_eq] at hclear
  obtain ⟨-, hdata⟩ := hclear
  exact bne_eq_false_iff_eq.mpr hdata

/-- Where no reserved bit is set, the checks of a pair are the operand checks of the command it selects. -/
theorem firstFailing_pairChecks {cmd data : Word} {i : Instr} (h : select cmd data = some i)
    (hclear : reservedClear cmd data = true) : firstFailing (pairChecks i cmd data) = firstFailing (operandChecks i) := by
  have hop := opField_of_select h
  unfold select at h
  split at h <;> cases h
  case h_6.refl => -- WRSEG
    have hseg := badSegData_of_reservedClear hop hclear
    simp [pairChecks, operandChecks, hclear, hseg, Instr.op, carriesLength, firstFailing_cons]
  all_goals simp [pairChecks, operandChecks, hclear, Instr.op, carriesLength, firstFailing_cons]

/-- Where a reserved bit is set, the first failing check of a pair is on the length or on the reserved bits. -/
theorem firstFailing_pairChecks_of_reserved {cmd data : Word} (i : Instr) (hreserved : reservedClear cmd data = false) :
    firstFailing (pairChecks i cmd data) =
      some (if carriesLength i.op && badLength (lenField cmd) then .badLength else .reservedField) := by
  simp [pairChecks, hreserved, firstFailing_cons, apply_ite]

/-- What the decoder answers for a pair that selects a command (log 22). -/
theorem decode_of_select {cmd data : Word} {i : Instr} (h : select cmd data = some i) :
    decode cmd data =
      if reservedClear cmd data then .ok i
      else .error (if carriesLength i.op && badLength (lenField cmd) then .badLength else .reservedField) := by
  simp only [decode, h, opField_of_select h, badLength]
  split_ifs <;> simp [*]

/-- A pair the decoder rejects: its code is the first failing check of the list of 60 R210. -/
theorem faultOf_of_decode_error {cmd data : Word} {c : FaultCode} (h : decode cmd data = .error c) (s : State) :
    faultOf cmd data s = some c := by
  cases hsel : select cmd data with
  | none =>
    rw [decode, hsel] at h
    cases h
    exact faultOf_of_select_none hsel s
  | some i =>
    rw [decode_of_select hsel] at h
    cases hclear : reservedClear cmd data with
    | true => simp [hclear] at h
    | false =>
      rw [hclear, if_neg Bool.false_ne_true] at h
      cases h
      rw [faultOf_of_select hsel, firstFailing_append, firstFailing_pairChecks_of_reserved i hclear, Option.some_or]

/-- A pair that decodes: the list of 60 R210 is the checks of its command. -/
theorem faultOf_of_decode_ok {cmd data : Word} {i : Instr} (h : decode cmd data = .ok i) (s : State) :
    faultOf cmd data s = firstFailing (commandChecks i s) := by
  cases hsel : select cmd data with
  | none =>
    rw [decode, hsel] at h
    cases h
  | some j =>
    rw [decode_of_select hsel] at h
    split_ifs at h with hclear
    cases h
    rw [faultOf_of_select hsel, firstFailing_append, firstFailing_pairChecks hsel hclear, firstFailing_commandChecks]

/-- The write of CMD issues the command, with the DATA written last, in the state without that access (20 R51). -/
theorem step_of_issuesNow {s : State} {cmd data : Word} {rest : List HostAccess} (h : issuesNow s cmd data rest) :
    step s = issue cmd data { s with requests := rest } := by
  obtain ⟨hconfig, -, rfl, hrequests⟩ := h
  rw [step_serve hconfig hrequests]
  rfl

/-- A command none of whose checks fails is well formed (60 R210). -/
theorem wellFormed_of_firstFailing {i : Instr} {s : State} (h : firstFailing (commandChecks i s) = none) :
    i.wellFormed = true := by
  rw [firstFailing_commandChecks, Option.or_eq_none_iff] at h
  obtain ⟨hoperands, -⟩ := h
  exact (firstFailing_operandChecks_eq_none_iff i).mp hoperands

end Sys2Proof.Machine
end

section
/-! CLAIMS. The faults (spec 60): the first failing check, and the checks on the session state. -/

namespace Sys2Proof.Machine

/-- Settles O9: the list of 60 R210 gives the decoder's code where the pair does not decode, and else the first failing check of
the command it decodes to. -/
theorem firstFailingCheckIsReported : Obligations.FirstFailingCheckIsReported := by
  intro s cmd data rest h
  have hstep := step_of_issuesNow h
  obtain ⟨-, hfcode, -, -⟩ := h
  rw [hstep, issue, if_pos hfcode]
  cases hd : decode cmd data with
  | error c =>
    rw [faultOf_of_decode_error hd]
    rfl
  | ok i =>
    rw [faultOf_of_decode_ok hd]
    cases hf : firstFailing (commandChecks i s) with
    | some c => exact exec_of_failing (s := { s with requests := rest }) hf
    | none =>
      have hexec := exec_of_checks (s := { s with requests := rest }) hf
      refine ⟨i, _, rfl, wellFormed_of_firstFailing hf, hexec, hexec, ?_⟩
      rw [(commandEffect_keeps i _).fcode]
      exact hfcode

/-- Settles O10: of a well-formed command only the session checks can fail, in their order. -/
theorem stateChecks : Obligations.StateChecks := by
  intro i s hwf
  have hchecks := firstFailing_commandChecks_of_wellFormed hwf s
  refine ⟨fun hpin hinit => ?_, fun hupdate hinit hbrv => ?_, fun hnopin => ?_⟩
  · refine exec_of_failing (c := .notInitialized) (hchecks.trans ?_)
    simp [sessionChecks, firstFailing_cons, hpin, hinit]
  · refine exec_of_failing (c := .brightnessUnset) (hchecks.trans ?_)
    simp [sessionChecks, firstFailing_cons, hinit, hupdate, hbrv]
  · have hnoupdate := needsBrightness_of_not_needsInit hnopin
    refine ⟨_, exec_of_checks (hchecks.trans ?_), (commandEffect_keeps i s).fcode⟩
    simp [sessionChecks, firstFailing_cons, firstFailing, hnopin, hnoupdate]

end Sys2Proof.Machine
end

section
/-! SUPPORT. The counts of a display update and of every command's events (70 R244), the delays in them (60 R215), and completion
as the checks of 60 R210. -/

namespace Sys2Proof.Machine

/-- A burst is Start, its bytes with a draw each, and Stop (00 R15). -/
theorem countsOf_burstEvents (n : Nat) {bs : List Byte} {ds : List Level} (h : ds.length = bs.length) :
    countsOf (burstEvents n bs ds) = ⟨4 + 28 * bs.length, 4 + 28 * bs.length, bs.length, 0⟩ := by
  have hstart : countsOf (startEvents n) = ⟨1, 1, 0, 0⟩ := rfl
  have hbytes : countsOf (bytesEvents n bs ds) = Counts.times bs.length ⟨28, 28, 1, 0⟩ := by
    rw [bytesEvents, countsOf_flatMap (fun p : Byte × Level => countsOf_byteEvents n p.1 p.2), List.length_zip, h, Nat.min_self]
  have hstop : countsOf (stopEvents n) = ⟨3, 3, 0, 0⟩ := rfl
  rw [burstEvents, countsOf_append, countsOf_append, hstart, hbytes, hstop]
  simp only [Counts.add, Counts.times, Counts.mk.injEq]
  omega

/-- A display update is three bursts, of 1, L + 1 and 1 bytes (41 R136). -/
theorem countsOf_updateEvents (c : Config) (brt : BitVec 4) (pos : BitVec 2) {seg : List Byte} {ds : List Level}
    (h : ds.length = seg.length + 3) : countsOf (updateEvents c brt pos seg ds) = updateCounts seg.length := by
  rw [updateEvents, countsOf_append, countsOf_append, countsOf_burstEvents, countsOf_burstEvents, countsOf_burstEvents]
  · simp only [Counts.add, updateCounts, List.length_cons, List.length_nil, Counts.mk.injEq, and_true]
    omega
  all_goals simp [h]

theorem countsOf_updateEventsFrom (seg : List Byte) (pos : BitVec 2) (s : State) :
    countsOf (updateEventsFrom seg pos s) = updateCounts seg.length :=
  countsOf_updateEvents _ _ _ (by simp [nextDraws])

/-- A SHOW command sends the LEN bytes of FRAME it has just encoded (42 R166). -/
theorem countsOf_showEvents (b : Int) (mag : Nat) (dots : Byte) (lz : Bool) {len : BitVec 3} (pos : BitVec 2) (s : State)
    (h4 : len.toNat ≤ 4) : countsOf (showEvents b mag dots lz len pos s) = updateCounts len.toNat := by
  rw [showEvents, countsOf_updateEventsFrom, List.length_take, Vector.length_toList, lenValue, Nat.min_eq_left h4]

/-- A well-formed command sends no more than the four bytes of FRAME. -/
theorem countsOf_commandEvents {i : Instr} (hwf : i.wellFormed = true) (s : State) :
    countsOf (commandEvents i s) = commandCounts i := by
  cases i with
  | init | setbr | start | stop | encdig | bitdly => rfl
  | wrbyte b => exact countsOf_byteEvents _ b _
  | wrseg pos len data => simp [commandEvents, commandCounts, countsOf_updateEventsFrom, segBytes, lenValue]
  | clear => exact countsOf_updateEventsFrom _ _ s
  | showbase _ _ _ _ len | showdec _ _ _ len | showhex _ _ _ len =>
    simp only [Instr.wellFormed, Bool.and_eq_true, lenInRange_iff] at hwf
    exact countsOf_showEvents _ _ _ _ _ s (by omega)

/-- Every delay of the list is n delay units (60 R215). -/
def DelaysAre (n : Nat) (ev : List Event) : Prop := ∀ m, Event.dly m ∈ ev → m = n

theorem delaysAre_append {n : Nat} {xs ys : List Event} : DelaysAre n (xs ++ ys) ↔ DelaysAre n xs ∧ DelaysAre n ys := by
  simp only [DelaysAre, List.mem_append, or_imp, forall_and]

theorem delaysAre_flatMap {n : Nat} {α : Type} {f : α → List Event} (h : ∀ a, DelaysAre n (f a)) (l : List α) :
    DelaysAre n (l.flatMap f) := by
  intro m hm
  obtain ⟨a, -, ha⟩ := List.mem_flatMap.mp hm
  exact h a m ha

theorem delaysAre_byteEvents (n : Nat) (b : Byte) (a : Level) : DelaysAre n (byteEvents n b a) := by
  have hbit (v : Bool) : DelaysAre n (bitEvents n v) := by simp [DelaysAre, bitEvents]
  have hack : DelaysAre n (ackEvents n a) := by cases a <;> simp [DelaysAre, ackEvents, holdEvents]
  rw [byteEvents_eq, delaysAre_append]
  exact ⟨delaysAre_flatMap (fun i => hbit (b.getLsbD i)) _, hack⟩

theorem delaysAre_startEvents (n : Nat) : DelaysAre n (startEvents n) := by simp [DelaysAre, startEvents]

theorem delaysAre_stopEvents (n : Nat) : DelaysAre n (stopEvents n) := by simp [DelaysAre, stopEvents]

theorem delaysAre_burstEvents (n : Nat) (bs : List Byte) (ds : List Level) : DelaysAre n (burstEvents n bs ds) := by
  have hbytes : DelaysAre n (bytesEvents n bs ds) :=
    delaysAre_flatMap (fun p : Byte × Level => delaysAre_byteEvents n p.1 p.2) _
  rw [burstEvents, delaysAre_append, delaysAre_append]
  exact ⟨⟨delaysAre_startEvents n, hbytes⟩, delaysAre_stopEvents n⟩

theorem delaysAre_updateEventsFrom (seg : List Byte) (pos : BitVec 2) (s : State) :
    DelaysAre s.config.bitDelay (updateEventsFrom seg pos s) := by
  rw [updateEventsFrom, updateEvents, delaysAre_append, delaysAre_append]
  exact ⟨⟨delaysAre_burstEvents _ _ _, delaysAre_burstEvents _ _ _⟩, delaysAre_burstEvents _ _ _⟩

/-- Every delay a command makes is one BIT_DELAY (60 R215). -/
theorem delaysAre_commandEvents (i : Instr) (s : State) : DelaysAre s.config.bitDelay (commandEvents i s) := by
  cases i with
  | init | setbr | encdig | bitdly => simp [DelaysAre, commandEvents]
  | start => exact delaysAre_startEvents _
  | stop => exact delaysAre_stopEvents _
  | wrbyte b => exact delaysAre_byteEvents _ b _
  | wrseg | clear => exact delaysAre_updateEventsFrom _ _ s
  | showbase | showdec | showhex => exact delaysAre_updateEventsFrom _ _ (encodeNumber _ _ _ _ _ s)

/-- Only delays take time, and here each takes the same (70 R246). -/
theorem minimumTime_eq {n : Nat} {ev : List Event} (h : DelaysAre n ev) :
    minimumTime ev = (countsOf ev).dly * n * Config.delayUnitTime := by
  induction ev with
  | nil => simp [minimumTime, countsOf]
  | cons e ev ih =>
    have hrest := ih fun m hm => h m (List.mem_cons_of_mem e hm)
    simp only [minimumTime, countsOf] at hrest ⊢
    cases e with
    | dly m =>
      obtain rfl : m = n := h m List.mem_cons_self
      rw [List.map_cons, List.sum_cons, hrest, List.countP_cons_of_pos rfl]
      ring
    | dir | rdDio | wrLow => simpa [isDly] using hrest

/-- A command completes when none of its checks fails (60 R210). -/
theorem firstFailing_of_completes {i : Instr} {s : State} (h : completes i s = true) :
    firstFailing (commandChecks i s) = none := by
  simp only [completes, Bool.and_eq_true, Bool.or_eq_true, Bool.not_eq_true', ← Bool.not_eq_true, ← imp_iff_not_or,
    and_assoc] at h
  obtain ⟨hwf, hsession⟩ := h
  rw [firstFailing_commandChecks_of_wellFormed hwf, firstFailing_eq_none_iff]
  simpa [sessionChecks] using hsession

/-- The table of 70 R244 has a WR event in the row of INIT alone. -/
theorem commandCounts_wr {i : Instr} (h : i ≠ .init) : (commandCounts i).wr = 0 := by
  cases i with
  | init => exact absurd rfl h
  | setbr | start | stop | wrbyte | wrseg | showbase | showdec | showhex | encdig | clear | bitdly => rfl

end Sys2Proof.Machine
end

section
/-! CLAIMS. Event counts and hazards (spec 70): the table of R244, and the latches. -/

namespace Sys2Proof.Machine

/-- Settles O37: a command that completes appends its own events; their counts are its row, and each of its delays is one
BIT_DELAY. -/
theorem eventCounts : Obligations.EventCounts := by
  intro i s h
  have hchecks := firstFailing_of_completes h
  have hcounts := countsOf_commandEvents (wellFormed_of_firstFailing hchecks) s
  refine ⟨commandEffect i s, commandEvents i s, exec_of_checks hchecks, commandEffect_trace i s, hcounts, ?_⟩
  rw [minimumTime_eq (delaysAre_commandEvents i s), hcounts]

/-- Settles O39: a fault appends nothing, and a command that completes appends the WR events of its row of 70 R244. -/
theorem onlyInitWritesLatches : Obligations.OnlyInitWritesLatches := by
  intro i s t ev h htrace hne e he
  obtain ⟨c, -, rfl⟩ | ⟨hchecks, rfl⟩ := exec_next h
  · obtain rfl : ev = [] := List.self_eq_append_right.mp htrace
    cases he
  · obtain rfl : commandEvents i s = ev := List.append_cancel_left ((commandEffect_trace i s).symm.trans htrace)
    have hwr : (commandEvents i s).countP isWr = 0 :=
      calc (commandEvents i s).countP isWr
          = (commandCounts i).wr := congrArg Counts.wr (countsOf_commandEvents (wellFormed_of_firstFailing hchecks) s)
        _ = 0 := commandCounts_wr hne
    exact Bool.eq_false_iff.mpr (List.countP_eq_zero.mp hwr e he)

end Sys2Proof.Machine
end

section
/-! SUPPORT. The words of a command as sums of numbers (30 R71, R72), which both directions of the encoding go through; and the masks of
reserved bits (30 R76) as bounds on those numbers. -/

namespace Sys2Proof.Machine

/-- The pair (cmd, data) holds every field of the command i at its place and nothing anywhere else (30 R71, R72, R76). -/
def WordsOf (i : Instr) (cmd data : Word) : Prop :=
  match i with
  | .init => cmd.toNat = 1 ∧ data.toNat = 0
  | .setbr level on => cmd.toNat = 2 + 1024 * on.toNat + 2048 * level.toNat ∧ data.toNat = 0
  | .start => cmd.toNat = 3 ∧ data.toNat = 0
  | .stop => cmd.toNat = 4 ∧ data.toNat = 0
  | .wrbyte b => cmd.toNat = 5 ∧ data.toNat = b.toNat
  | .wrseg pos len d => cmd.toNat = 6 + 16 * pos.toNat + 64 * len.toNat ∧ data = d ∧ data.toNat < 256 ^ len.toNat
  | .showbase base value dots lz len pos =>
    cmd.toNat = 7 + 16 * pos.toNat + 64 * len.toNat + 512 * lz.toNat + 2 ^ 16 * dots.toNat + 2 ^ 24 * base.toNat ∧
      data.toNat = value.toNat
  | .showdec value dots lz len pos =>
    cmd.toNat = 8 + 16 * pos.toNat + 64 * len.toNat + 512 * lz.toNat + 2 ^ 16 * dots.toNat ∧ data.toNat = value.toNat
  | .showhex value dots lz len pos =>
    cmd.toNat = 9 + 16 * pos.toNat + 64 * len.toNat + 512 * lz.toNat + 2 ^ 16 * dots.toNat ∧ data.toNat = value.toNat
  | .encdig d => cmd.toNat = 10 ∧ data.toNat = d.toNat
  | .clear => cmd.toNat = 11 ∧ data.toNat = 0
  | .bitdly => cmd.toNat = 12 ∧ data.toNat = 0

/-- A pair equals a pair of words when the numbers are equal. -/
theorem words_eq_iff (x y cmd data : Word) : (x, y) = (cmd, data) ↔ cmd.toNat = x.toNat ∧ data.toNat = y.toNat := by
  rw [Prod.mk.injEq, BitVec.toNat_eq, BitVec.toNat_eq, eq_comm, @eq_comm _ y.toNat]

theorem plainCmd_toNat (op : BitVec 4) : (plainCmd op).toNat = op.toNat := by
  simp only [plainCmd, toNat_append_eq_add, BitVec.toNat_ofNat]
  omega

theorem showCmd_toNat (base : BitVec 8) (dots : Byte) (lz : Bool) (len : BitVec 3) (pos : BitVec 2) (op : BitVec 4) :
    (showCmd base dots lz len pos op).toNat =
      op.toNat + 16 * pos.toNat + 64 * len.toNat + 512 * lz.toNat + 2 ^ 16 * dots.toNat + 2 ^ 24 * base.toNat := by
  simp only [showCmd, toNat_append_eq_add, flagBit_toNat, BitVec.toNat_ofNat]
  omega

/-- The encoder makes exactly the words whose numbers are the sums of the fields. -/
theorem wordsOf_iff_encode (i : Instr) (cmd data : Word) :
    WordsOf i cmd data ↔ i.encodable = true ∧ encode i = (cmd, data) := by
  cases i with
  | init | start | stop | clear | bitdly =>
    simp only [WordsOf, Instr.encodable, encode, words_eq_iff, true_and, plainCmd_toNat]
    rfl
  | wrbyte | encdig =>
    simp only [WordsOf, Instr.encodable, encode, words_eq_iff, true_and, plainCmd_toNat, toNat_append_eq_add, BitVec.toNat_ofNat]
    omega
  | setbr level on =>
    simp only [WordsOf, Instr.encodable, encode, words_eq_iff, true_and, toNat_append_eq_add, flagBit_toNat, BitVec.toNat_ofNat]
    omega
  | wrseg pos len d =>
    simp only [WordsOf, Instr.encodable, dataFits, encode, words_eq_iff, decide_eq_true_eq, toNat_append_eq_add, BitVec.toNat_ofNat,
      BitVec.toNat_eq]
    omega
  | showbase | showdec | showhex =>
    simp only [WordsOf, Instr.encodable, encode, words_eq_iff, true_and, showCmd_toNat, toNat_append_eq_add, BitVec.toNat_ofNat]
    omega

/-! The masks of 30 R76 as bounds. A mask holds all places from one on, or a field of places, or both. -/

theorem nat_and_shiftLeft (x m lo : Nat) : x &&& m <<< lo = (x >>> lo &&& m) <<< lo := by
  apply Nat.eq_of_testBit_eq
  intro i
  by_cases h : lo ≤ i <;> simp [h]

/-- A word has no bit in the field of n bits at place lo exactly when that field is 0 as a number. -/
theorem and_fieldMask_eq_zero_iff {w : Nat} (x : BitVec w) (lo n : Nat) (h : (2 ^ n - 1) <<< lo < 2 ^ w) :
    x &&& BitVec.ofNat w ((2 ^ n - 1) <<< lo) = 0#w ↔ x.toNat / 2 ^ lo % 2 ^ n = 0 := by
  rw [and_eq_zero_iff_toNat, BitVec.toNat_ofNat, Nat.mod_eq_of_lt h, nat_and_shiftLeft, Nat.and_two_pow_sub_one_eq_mod,
    Nat.shiftLeft_eq, Nat.shiftRight_eq_div_pow]
  simp

/-- A mask over two fields is clear exactly when both are. -/
theorem and_or_eq_zero_iff {w : Nat} (x y z : BitVec w) : x &&& (y ||| z) = 0#w ↔ x &&& y = 0#w ∧ x &&& z = 0#w := by
  rw [BitVec.and_or_distrib_left, BitVec.or_eq_zero_iff]

@[simp] theorem opMask_clear_iff (x : Word) : x &&& 0xFFFFFFF0#32 = 0#32 ↔ x.toNat < 2 ^ 4 :=
  and_allOnes_shiftLeft_eq_zero_iff x 4

@[simp] theorem wrsegMask_clear_iff (x : Word) : x &&& 0xFFFFFE00#32 = 0#32 ↔ x.toNat < 2 ^ 9 :=
  and_allOnes_shiftLeft_eq_zero_iff x 9

@[simp] theorem byteMask_clear_iff (x : Word) : x &&& 0xFFFFFF00#32 = 0#32 ↔ x.toNat < 2 ^ 8 :=
  and_allOnes_shiftLeft_eq_zero_iff x 8

@[simp] theorem valueMask_clear_iff (x : Word) : x &&& 0xFFFF0000#32 = 0#32 ↔ x.toNat < 2 ^ 16 :=
  and_allOnes_shiftLeft_eq_zero_iff x 16

@[simp] theorem wholeMask_clear_iff (x : Word) : x &&& 0xFFFFFFFF#32 = 0#32 ↔ x.toNat < 2 ^ 0 :=
  and_allOnes_shiftLeft_eq_zero_iff x 0

@[simp] theorem segMask_clear_iff (len : BitVec 3) (x : Word) : x &&& reservedSegData len = 0#32 ↔ x.toNat < 256 ^ len.toNat := by
  have h := badSegData_eq_not_dataFits len x
  rw [badSegData, dataFits, ← decide_not, bne, beq_eq_decide, ← decide_not, decide_eq_decide, not_iff_not] at h
  exact h

@[simp] theorem showbaseMask_clear_iff (x : Word) : x &&& 0x0000FC00#32 = 0#32 ↔ x.toNat / 2 ^ 10 % 2 ^ 6 = 0 :=
  and_fieldMask_eq_zero_iff x 10 6 (by decide)

@[simp] theorem showMask_clear_iff (x : Word) : x &&& 0xFF00FC00#32 = 0#32 ↔ x.toNat / 2 ^ 10 % 2 ^ 6 = 0 ∧ x.toNat < 2 ^ 24 :=
  (and_or_eq_zero_iff x 0x0000FC00#32 (BitVec.allOnes 32 <<< 24)).trans
    (and_congr (showbaseMask_clear_iff x) (and_allOnes_shiftLeft_eq_zero_iff x 24))

@[simp] theorem setbrMask_clear_iff (x : Word) : x &&& 0xFFFFC3F0#32 = 0#32 ↔ x.toNat / 2 ^ 4 % 2 ^ 6 = 0 ∧ x.toNat < 2 ^ 14 :=
  (and_or_eq_zero_iff x 0x000003F0#32 (BitVec.allOnes 32 <<< 14)).trans
    (and_congr (and_fieldMask_eq_zero_iff x 4 6 (by decide)) (and_allOnes_shiftLeft_eq_zero_iff x 14))

/-! The other fields of the words as numbers (30 R71, R72). -/

theorem lzField_toNat (cmd : Word) : (lzField cmd).toNat = cmd.toNat / 512 % 2 := Nat.toNat_testBit _ _

theorem onField_toNat (cmd : Word) : (onField cmd).toNat = cmd.toNat / 1024 % 2 := Nat.toNat_testBit _ _

theorem levelField_toNat (cmd : Word) : (levelField cmd).toNat = cmd.toNat / 2048 % 8 := by
  simp [levelField, Nat.shiftRight_eq_div_pow]

theorem dotsField_toNat (cmd : Word) : (dotsField cmd).toNat = cmd.toNat / 2 ^ 16 % 256 := by
  simp [dotsField, Nat.shiftRight_eq_div_pow]

theorem byteField_toNat (data : Word) : (byteField data).toNat = data.toNat % 256 := by
  simp [byteField]

theorem valueField_toNat (data : Word) : (valueField data).toNat = data.toNat % 65536 := by
  simp [valueField]

/-- A pair decodes exactly when it selects a command and no reserved bit is set (30 R75, R76). -/
theorem decode_eq_ok_iff (cmd data : Word) (i : Instr) :
    decode cmd data = .ok i ↔ select cmd data = some i ∧ reservedClear cmd data = true := by
  cases hsel : select cmd data with
  | none => simp [decode, hsel]
  | some j => rw [decode_of_select hsel]; split_ifs with hclear <;> simp [hclear]

theorem bool_eq_iff_toNat (a b : Bool) : a = b ↔ a.toNat = b.toNat := by
  revert a b
  decide

/-- The command a pair selects has the fields of the pair as its operands; with no reserved bit set there is nothing else in it. -/
theorem wordsOf_of_select {cmd data : Word} {i : Instr} (h : select cmd data = some i) (hclear : reservedClear cmd data = true) :
    WordsOf i cmd data := by
  have hop : cmd.toNat % 16 = i.op.toNat := by rw [← opField_toNat, opField_of_select h]
  simp only [reservedClear, opField_of_select h, Bool.and_eq_true, beq_iff_eq] at hclear
  unfold select at h
  split at h <;> cases h
  all_goals
    simp [Instr.op, reservedCmd, reservedData, lenField_toNat] at hclear hop
    simp only [WordsOf, posField_toNat, lenField_toNat, lzField_toNat, onField_toNat, levelField_toNat, dotsField_toNat,
      baseField_toNat, byteField_toNat, valueField_toNat, true_and]
    omega

theorem opField_of_wordsOf {cmd data : Word} {i : Instr} (h : WordsOf i cmd data) : opField cmd = i.op := by
  rw [BitVec.toNat_eq, opField_toNat]
  cases i with
  | init | start | stop | wrbyte | encdig | clear | bitdly =>
    obtain ⟨hcmd, -⟩ := h
    rw [hcmd]
    rfl
  | setbr | wrseg | showbase | showdec | showhex =>
    obtain ⟨hcmd, -⟩ := h
    rw [hcmd, Instr.op, BitVec.toNat_ofNat]
    omega

/-- From the sums each field can be read off. -/
theorem select_of_wordsOf {cmd data : Word} {i : Instr} (h : WordsOf i cmd data) : select cmd data = some i := by
  rw [select, opField_of_wordsOf h]
  cases i with
  | init | start | stop | clear | bitdly => rfl
  | wrbyte b | encdig b =>
    obtain ⟨-, hdata⟩ := h
    simpa [Instr.op, BitVec.toNat_eq, byteField_toNat, hdata] using b.isLt
  | setbr _ on =>
    have hon := on.toNat_lt
    obtain ⟨hcmd, -⟩ := h
    simp [Instr.op, BitVec.toNat_eq, bool_eq_iff_toNat, levelField_toNat, onField_toNat]
    omega
  | wrseg =>
    obtain ⟨hcmd, rfl, -⟩ := h
    simp [Instr.op, BitVec.toNat_eq, posField_toNat, lenField_toNat]
    omega
  | showbase _ _ _ lz | showdec _ _ lz | showhex _ _ lz =>
    have hlz := lz.toNat_lt
    obtain ⟨hcmd, hdata⟩ := h
    simp [Instr.op, BitVec.toNat_eq, bool_eq_iff_toNat, baseField_toNat, valueField_toNat, dotsField_toNat, lzField_toNat,
      lenField_toNat, posField_toNat]
    omega

/-- The sums leave no room for a reserved bit. -/
theorem reservedClear_of_wordsOf {cmd data : Word} {i : Instr} (h : WordsOf i cmd data) : reservedClear cmd data = true := by
  simp only [reservedClear, opField_of_wordsOf h, Bool.and_eq_true, beq_iff_eq]
  cases i with
  | init | start | stop | clear | bitdly =>
    obtain ⟨hcmd, hdata⟩ := h
    simp [Instr.op, reservedCmd, reservedData, hcmd, hdata]
  | wrbyte b | encdig b =>
    obtain ⟨hcmd, hdata⟩ := h
    simpa [Instr.op, reservedCmd, reservedData, hcmd, hdata] using b.isLt
  | setbr _ on =>
    have hon := on.toNat_lt
    obtain ⟨hcmd, hdata⟩ := h
    simp [Instr.op, reservedCmd, reservedData, hdata]
    omega
  | wrseg _ len =>
    obtain ⟨hcmd, -, hdata⟩ := h
    have hlen : cmd.toNat / 64 % 8 = len.toNat := by omega
    simp [Instr.op, reservedCmd, reservedData, lenField_toNat, hlen, hdata]
    omega
  | showbase _ _ _ lz | showdec _ _ lz | showhex _ _ lz =>
    have hlz := lz.toNat_lt
    obtain ⟨hcmd, hdata⟩ := h
    simp [Instr.op, reservedCmd, reservedData]
    omega

/-- A pair decodes to exactly the command of which it holds the words (30 R70 to R76). -/
theorem decode_eq_ok_iff_wordsOf (cmd data : Word) (i : Instr) : decode cmd data = .ok i ↔ WordsOf i cmd data := by
  rw [decode_eq_ok_iff]
  exact ⟨fun ⟨hselect, hclear⟩ => wordsOf_of_select hselect hclear,
    fun h => ⟨select_of_wordsOf h, reservedClear_of_wordsOf h⟩⟩

end Sys2Proof.Machine
end

section
/-! CLAIMS. The encoding (spec 30): decode and encode invert each other, and a pair that decodes is the sum of its fields. -/

namespace Sys2Proof.Machine

/-- Settles O2: an encodable command's words are the sums of its fields, and such a pair decodes. -/
theorem decodeOfEncode : Obligations.DecodeOfEncode := by
  intro i h
  exact (decode_eq_ok_iff_wordsOf _ _ i).mpr ((wordsOf_iff_encode i _ _).mpr ⟨h, rfl⟩)

/-- Settles O3: a pair that decodes is the sums of the fields of its command, which are what the encoder makes. -/
theorem encodeOfDecode : Obligations.EncodeOfDecode := by
  intro cmd data i h
  exact (wordsOf_iff_encode i cmd data).mp ((decode_eq_ok_iff_wordsOf cmd data i).mp h)

/-- Settles O4: WordsOf says the sums command by command. -/
theorem wordsAreSumsOfFields : Obligations.WordsAreSumsOfFields := by
  intro cmd data i h
  have hwords := (decode_eq_ok_iff_wordsOf cmd data i).mp h
  cases i with
  | init | setbr | start | stop | wrbyte | wrseg | showbase | showdec | showhex | encdig | clear | bitdly => exact hwords

end Sys2Proof.Machine
end

section
/-! SUPPORT. What an observer of the two lines receives (20 R54, 40 R101 to R103; log 23): bit by bit, byte by byte, burst by burst,
whatever is acknowledged. -/

namespace Sys2Proof.Machine

/-- The observer's bus is idle, and it has received these bursts. -/
def BusIdle (r : List (List Byte)) (m : Observer) : Prop :=
  m.clk = .high ∧ m.dio = .high ∧ m.bursts.map bytesOfBits = r

/-- The observer has clocked the bits in since an open start condition, and received these bursts before it. With one line low, the
fall of DIO that begins Stop is no new start condition. -/
def InBurst (r : List (List Byte)) (bits : List Bool) (m : Observer) : Prop :=
  m.bits = some bits ∧ m.bursts.map bytesOfBits = r ∧ (m.clk = .low ∨ m.dio = .low)

/-- The nine clocks of a byte: DIO is released in the acknowledgment clock, which is high on the lines as the engine leaves them. -/
def byteClocks (b : Byte) : List Bool := (List.range 8).map (fun i => b.getLsbD i) ++ [true]

/-- A bit period clocks in its bit, from any state of the lines. -/
theorem observe_bitEvents (n : Nat) (v : Bool) (m : Observer) :
    (bitEvents n v).foldl observe m =
      { m with clk := .high, dio := if v then .high else .low, bits := m.bits.map (fun l => l ++ [v]) } := by
  cases v <;> simp [bitEvents, observe]

/-- The acknowledgment phase clocks in one bit and leaves CLK low; the sampled level is that of DIO, so the hold is no fall. -/
theorem observe_ackEvents (n : Nat) (a : Level) (m : Observer) :
    (ackEvents n a).foldl observe m = ⟨.low, a, m.bits.map (fun l => l ++ [true]), m.bursts⟩ := by
  cases a <;> simp [ackEvents, holdEvents, observe]

/-- Bit periods clock in their bits and close no burst. -/
theorem observe_flatMap_bitEvents (n : Nat) (vs : List Bool) (m : Observer) :
    ((vs.flatMap (bitEvents n)).foldl observe m).bits = m.bits.map (fun l => l ++ vs) ∧
      ((vs.flatMap (bitEvents n)).foldl observe m).bursts = m.bursts := by
  induction vs generalizing m with
  | nil => simp
  | cons v vs ih =>
    have hrest := ih ((bitEvents n v).foldl observe m)
    rw [observe_bitEvents] at hrest
    simpa [observe_bitEvents, Function.comp_def] using hrest

/-- A byte is nine clocks (20 R54). -/
theorem observe_byteEvents (n : Nat) (b : Byte) (a : Level) (m : Observer) :
    (byteEvents n b a).foldl observe m = ⟨.low, a, m.bits.map (fun l => l ++ byteClocks b), m.bursts⟩ := by
  have hbits : (List.range 8).flatMap (fun i => bitEvents n (b.getLsbD i)) =
      ((List.range 8).map (fun i => b.getLsbD i)).flatMap (bitEvents n) := by rw [List.flatMap_map]
  obtain ⟨hclocked, hbursts⟩ := observe_flatMap_bitEvents n ((List.range 8).map (fun i => b.getLsbD i)) m
  rw [byteEvents_eq, List.foldl_append, observe_ackEvents, hbits, hclocked, hbursts]
  simp [byteClocks, Function.comp_def]

theorem inBurst_bytesEvents (n : Nat) {r : List (List Byte)} {bits : List Bool} {m : Observer} (h : InBurst r bits m)
    {bs : List Byte} {ds : List Level} (hlen : ds.length = bs.length) :
    InBurst r (bits ++ bs.flatMap byteClocks) ((bytesEvents n bs ds).foldl observe m) := by
  induction bs generalizing ds bits m with
  | nil => simpa [bytesEvents] using h
  | cons b bs ih =>
    obtain ⟨a, ds, rfl⟩ := List.exists_of_length_succ ds hlen
    have hbyte : InBurst r (bits ++ byteClocks b) ((byteEvents n b a).foldl observe m) := by
      obtain ⟨hbits, hbursts, -⟩ := h
      rw [observe_byteEvents]
      exact ⟨by simp [hbits], hbursts, .inl rfl⟩
    have hevents : bytesEvents n (b :: bs) (a :: ds) = byteEvents n b a ++ bytesEvents n bs ds := rfl
    rw [List.flatMap_cons, ← List.append_assoc, hevents, List.foldl_append]
    exact ih hbyte (by simpa using hlen)

theorem ofBoolListLE_getLsbD (b : Byte) :
    BitVec.ofBoolListLE [b.getLsbD 0, b.getLsbD 1, b.getLsbD 2, b.getLsbD 3, b.getLsbD 4, b.getLsbD 5, b.getLsbD 6, b.getLsbD 7] =
      b := by
  apply BitVec.eq_of_getLsbD_eq
  intro i hi
  rw [BitVec.getLsbD_ofBoolListLE]
  simp only [List.length_cons, List.length_nil] at hi
  interval_cases i <;> rfl

/-- The bytes are read back from their clocks; the clock that a stop condition may add is no byte. -/
theorem bytesOfBits_byteClocks (bs : List Byte) {rest : List Bool} (h : rest.length ≤ 1) :
    bytesOfBits (bs.flatMap byteClocks ++ rest) = bs := by
  induction bs with
  | nil =>
    rcases rest with _ | ⟨v, _ | ⟨w, rest⟩⟩
    · rfl
    · rfl
    · simp at h
  | cons b bs ih =>
    exact congrArg₂ List.cons (ofBoolListLE_getLsbD b) ih

/-- Start on an idle bus opens a burst (40 R101). -/
theorem inBurst_startEvents (n : Nat) {r : List (List Byte)} {m : Observer} (h : BusIdle r m) :
    InBurst r [] ((startEvents n).foldl observe m) := by
  obtain ⟨hclk, hdio, hbursts⟩ := h
  simp [InBurst, startEvents, observe, hclk, hdio, hbursts]

/-- Stop closes the open burst (40 R102), with one more clock where CLK was low. -/
theorem busIdle_stopEvents (n : Nat) {r : List (List Byte)} {bs : List Byte} {m : Observer}
    (h : InBurst r (bs.flatMap byteClocks) m) : BusIdle (r ++ [bs]) ((stopEvents n).foldl observe m) := by
  obtain ⟨hbits, hbursts, hlow⟩ := h
  cases hclk : m.clk with
  | low =>
    simp [BusIdle, stopEvents, observe, hclk, hbits, hbursts, bytesOfBits_byteClocks]
  | high =>
    have hdio : m.dio = .low := by simpa [hclk] using hlow
    have hbytes := bytesOfBits_byteClocks bs (rest := []) (by simp)
    simp_all [BusIdle, stopEvents, observe]

/-- A burst on an idle bus is received as its bytes (00 R15, 40 R110). -/
theorem busIdle_burstEvents (n : Nat) {r : List (List Byte)} {m : Observer} (h : BusIdle r m) {bs : List Byte} {ds : List Level}
    (hlen : ds.length = bs.length) : BusIdle (r ++ [bs]) ((burstEvents n bs ds).foldl observe m) := by
  rw [burstEvents, List.foldl_append, List.foldl_append]
  exact busIdle_stopEvents n (inBurst_bytesEvents n (inBurst_startEvents n h) hlen)

theorem busIdle_idle : BusIdle [] Observer.idle := ⟨rfl, rfl, rfl⟩

theorem received_burstEvents (n : Nat) {bs : List Byte} {ds : List Level} (hlen : ds.length = bs.length) :
    received (burstEvents n bs ds) = [bs] := by
  obtain ⟨-, -, hreceived⟩ := busIdle_burstEvents n busIdle_idle hlen
  exact hreceived

/-- A display update is received as its three bursts (41 R132). -/
theorem received_updateEvents (c : Config) (brt : BitVec 4) (pos : BitVec 2) {seg : List Byte} {ds : List Level}
    (hlen : ds.length = seg.length + 3) : received (updateEvents c brt pos seg ds) = updateBytes c brt pos seg := by
  have h1 : (ds.take 1).length = [c.cmdData].length := by simp [hlen]
  have h2 : ((ds.drop 1).take (seg.length + 1)).length = ((c.cmdAddr ||| pos.setWidth 8) :: seg).length := by simp [hlen]
  have h3 : (ds.drop (seg.length + 2)).length = [c.cmdDisplay ||| brt.setWidth 8].length := by simp [hlen]
  have hidle := busIdle_burstEvents c.bitDelay
    (busIdle_burstEvents c.bitDelay (busIdle_burstEvents c.bitDelay busIdle_idle h1) h2) h3
  obtain ⟨-, -, hreceived⟩ := hidle
  rw [received, updateEvents, List.foldl_append, List.foldl_append, hreceived]
  rfl

theorem received_updateEventsFrom (seg : List Byte) (pos : BitVec 2) (s : State) :
    received (updateEventsFrom seg pos s) = updateBytes s.config s.brt pos seg :=
  received_updateEvents _ _ _ (by simp [nextDraws])

/-- A display update leaves the lines idle (41 R131). -/
theorem linesIdle_of_needsBrightness {i : Instr} (h : needsBrightness i = true) (s : State) : linesIdle (commandEffect i s) := by
  cases i with
  | wrseg | clear =>
    simp only [commandEffect, writeFrame_eq]
    exact ⟨rfl, rfl⟩
  | showbase | showdec | showhex =>
    simp only [commandEffect, showNumber, writeFrame_eq]
    exact ⟨rfl, rfl⟩
  | init | setbr | start | stop | wrbyte | encdig | bitdly => cases h

/-- The display update of a SHOW command does not touch the frame it has encoded (41 R131). -/
theorem showNumber_frame (b : Int) (mag : Nat) (dots : Byte) (lz : Bool) (len : BitVec 3) (pos : BitVec 2) (s : State) :
    (showNumber b mag dots lz len pos s).frame = (encodeNumber b mag dots lz len.toNat s).frame := by
  simp only [showNumber, writeFrame_eq]
  rfl

theorem runAll_append (is js : List Instr) (s : State) : runAll (is ++ js) s = (runAll is s).bind (runAll js) := by
  induction is generalizing s with
  | nil => rfl
  | cons i is ih =>
    rw [List.cons_append, runAll, runAll]
    cases exec i s with
    | next t => exact ih t
    | fault | refused => rfl

/-- After INIT each WRBYTE of a list sends its byte (40 R109). -/
theorem runAll_wrbytes (bs : List Byte) {s : State} (h : s.init = true) :
    runAll (bs.map Instr.wrbyte) s = some (bs.foldl (fun t b => sendByte b t) s) := by
  induction bs generalizing s with
  | nil => rfl
  | cons b bs ih =>
    have hexec : exec (.wrbyte b) s = .next (sendByte b s) := exec_of_checks (firstFailing_pinChecks h)
    rw [List.map_cons, runAll, hexec, List.foldl_cons]
    exact ih (by rw [sendByte, writeByte_eq]; exact h)

theorem foldl_sendByte_init (bs : List Byte) (s : State) : (bs.foldl (fun t b => sendByte b t) s).init = s.init := by
  induction bs generalizing s with
  | nil => rfl
  | cons b bs ih => rw [List.foldl_cons, ih, sendByte, writeByte_eq]; rfl

/-- After INIT the commands START, WRBYTE of each byte, STOP are one burst (40 R110). -/
theorem runAll_rawBurst (bs : List Byte) {s : State} (h : s.init = true) :
    runAll (.start :: bs.map Instr.wrbyte ++ [.stop]) s = some (burst bs s) := by
  have hstart : exec .start s = .next (startProc s) := exec_of_checks (firstFailing_pinChecks h)
  have hinit : (startProc s).init = true := h
  have hstop : exec .stop (bs.foldl (fun t b => sendByte b t) (startProc s)) = .next (burst bs s) :=
    exec_of_checks (firstFailing_pinChecks (by rwa [foldl_sendByte_init]))
  rw [List.cons_append, runAll, hstart]
  dsimp only
  rw [runAll_append, runAll_wrbytes bs hinit, Option.bind_some, runAll, hstop]
  rfl

/-- The events of a burst of any number of bytes, none among them (00 R15). -/
theorem burst_trace (bs : List Byte) (s : State) :
    (burst bs s).trace = s.trace ++ burstEvents s.config.bitDelay bs (nextDraws s bs.length) := by
  cases bs with
  | nil => simp [burst, startProc_eq, stopProc_eq, burstEvents, bytesEvents]
  | cons b bs => rw [burst_eq, afterBurst_trace]

theorem linesIdle_burst (bs : List Byte) (s : State) : linesIdle (burst bs s) := by
  rw [burst, stopProc_eq]
  exact ⟨rfl, rfl⟩

/-- The nibble of SETBR as the display-control byte shows it: ON at bit 3 over LEVEL (10 R26, 30 R78). -/
theorem packBrightness_setWidth (level : BitVec 3) (on : Bool) :
    (packBrightness level on).setWidth 8 = BitVec.ofNat 8 (8 * on.toNat + level.toNat) := by
  revert level on
  decide

end Sys2Proof.Machine
end

section
/-! CLAIMS. The bus as an observer receives it (40 R110, 41 R132, R133; log 23). -/

namespace Sys2Proof.Machine

/-- Settles O33: a display update appends the events of its three bursts, which are received one by one. -/
theorem observerReceivesThreeBursts : Obligations.ObserverReceivesThreeBursts := by
  intro i s hupdate hcompletes
  have hexec := exec_of_checks (firstFailing_of_completes hcompletes)
  have hidle := linesIdle_of_needsBrightness hupdate s
  have htrace := commandEffect_trace i s
  cases i with
  | wrseg pos len data =>
    exact ⟨_, _, _, hexec, htrace, hidle, received_updateEventsFrom _ _ _, segBytes_eq_data8 data len.toNat⟩
  | clear => exact ⟨_, _, _, hexec, htrace, hidle, received_updateEventsFrom _ _ _, rfl⟩
  | showbase | showdec | showhex =>
    refine ⟨_, _, _, hexec, htrace, hidle, received_updateEventsFrom _ _ _, ?_⟩
    rw [commandEffect, showNumber_frame]
    rfl
  | init | setbr | start | stop | wrbyte | encdig | bitdly => cases hupdate

/-- Settles O34: the commands run as one burst. -/
theorem observerReceivesRawBurst : Obligations.ObserverReceivesRawBurst := by
  intro bs s hinit
  have hdraws : (nextDraws s bs.length).length = bs.length := by simp [nextDraws]
  exact ⟨burst bs s, _, runAll_rawBurst bs hinit, burst_trace bs s, received_burstEvents _ hdraws, linesIdle_burst bs s⟩

/-- Settles O36: SETBR makes BRT the new nibble, and the display update that follows is received with it in its third burst. -/
theorem brightnessShowsAtTheNextUpdate : Obligations.BrightnessShowsAtTheNextUpdate := by
  intro level on s i hupdate hwf hinit
  have hcompletes : completes i (setBrightness (packBrightness level on) s) = true := by simp [completes, hwf, hinit]
  obtain ⟨u, ev, seg, hexec, htrace, -, hreceived, -⟩ := observerReceivesThreeBursts i _ hupdate hcompletes
  refine ⟨_, u, ev, exec_of_checks rfl, rfl, hexec, htrace, ?_⟩
  calc (received ev)[2]?
      = some [s.config.cmdDisplay ||| (packBrightness level on).setWidth 8] := by rw [hreceived]; rfl
    _ = some [s.config.cmdDisplay ||| BitVec.ofNat 8 (8 * on.toNat + level.toNat)] := by rw [packBrightness_setWidth]

end Sys2Proof.Machine
end

section
/-! SUPPORT. The agreement of the state with its trace (10 R23, R24, R27, 60 R215, 70 R242) is kept by each primitive, and so by all
that is made of them. -/

namespace Sys2Proof.Machine

/-- An event other than DIR sets no direction. -/
theorem lastDir_snoc (p : Pin) (ev : List Event) {e : Event} (h : isDir e = false) : lastDir p (ev ++ [e]) = lastDir p ev := by
  cases e with
  | dir => cases h
  | wrLow | rdDio | dly => simp [lastDir]

theorem lastDir_snoc_dir (p q : Pin) (ev : List Event) (d : Dir) :
    lastDir p (ev ++ [.dir q d]) = if q = p then .known d else lastDir p ev := by
  simp [lastDir]

/-- An event other than RD samples no level. -/
theorem lastRead_snoc (ev : List Event) {e : Event} (h : isRd e = false) : lastRead (ev ++ [e]) = lastRead ev := by
  cases e with
  | rdDio => cases h
  | dir | wrLow | dly => simp [lastRead]

/-- The hold does not touch LAST_ACK, so that its write can as well come before the hold. -/
theorem setAck_ackHold (a l : Level) (s : State) : setAck l (ackHold a s) = ackHold a (setAck l s) := by
  cases a <;> rfl

namespace TraceAgrees

variable {s : State}

theorem setDir (h : TraceAgrees s) (p : Pin) (d : Dir) : TraceAgrees (setDir p d s) := by
  cases p with
  | clk =>
    exact ⟨(lastDir_snoc_dir .clk .clk s.trace d).symm, h.dio.trans (lastDir_snoc_dir .dio .clk s.trace d).symm,
      (lastRead_snoc s.trace rfl).trans h.ack, by simpa [isWr] using h.init, by simpa using h.delays⟩
  | dio =>
    exact ⟨h.clk.trans (lastDir_snoc_dir .clk .dio s.trace d).symm, (lastDir_snoc_dir .dio .dio s.trace d).symm,
      (lastRead_snoc s.trace rfl).trans h.ack, by simpa [isWr] using h.init, by simpa using h.delays⟩

theorem bitDelay (h : TraceAgrees s) : TraceAgrees (bitDelay s) :=
  ⟨h.clk.trans (lastDir_snoc .clk s.trace rfl).symm, h.dio.trans (lastDir_snoc .dio s.trace rfl).symm,
    (lastRead_snoc s.trace rfl).trans h.ack, by simpa [isWr] using h.init, by simpa [or_imp, forall_and] using h.delays⟩

/-- A sample and the write of LAST_ACK together (10 R27). -/
theorem sample (h : TraceAgrees s) : TraceAgrees (setAck (nextLevel s) (sampleDio s)) :=
  ⟨h.clk.trans (lastDir_snoc .clk s.trace rfl).symm, h.dio.trans (lastDir_snoc .dio s.trace rfl).symm, by simp [lastRead],
    by simpa [isWr] using h.init, by simpa using h.delays⟩

/-- The write of a latch and of INIT together (43 R191). -/
theorem latch (h : TraceAgrees s) (p : Pin) : TraceAgrees { writePinLow p s with init := true } :=
  ⟨h.clk.trans (lastDir_snoc .clk s.trace rfl).symm, h.dio.trans (lastDir_snoc .dio s.trace rfl).symm,
    (lastRead_snoc s.trace rfl).trans h.ack, by simp [isWr], by simpa using h.delays⟩

theorem startProc (h : TraceAgrees s) : TraceAgrees (startProc s) := (h.setDir _ _).bitDelay

theorem stopProc (h : TraceAgrees s) : TraceAgrees (stopProc s) :=
  ((((h.setDir _ _).bitDelay.setDir _ _).bitDelay).setDir _ _).bitDelay

theorem sendBit (h : TraceAgrees s) (v : Bool) : TraceAgrees (sendBit v s) :=
  ((((h.setDir _ _).bitDelay.setDir _ _).bitDelay).setDir _ _).bitDelay

theorem sendBits (h : TraceAgrees s) (b : Byte) : TraceAgrees (sendBits b s) :=
  List.foldlRecOn (bitsOf b) _ h fun _ ht v _ => ht.sendBit v

theorem ackClock (h : TraceAgrees s) : TraceAgrees (ackClock s) :=
  (((h.setDir _ _).setDir _ _).bitDelay.setDir _ _).bitDelay

theorem ackHold (h : TraceAgrees s) (a : Level) : TraceAgrees (ackHold a s) := by
  cases a with
  | low => exact ((h.setDir _ _).bitDelay.setDir _ _).bitDelay
  | high => exact (h.bitDelay.setDir _ _).bitDelay

theorem sendByte (h : TraceAgrees s) (b : Byte) : TraceAgrees (sendByte b s) := by
  rw [Machine.sendByte, writeByte, setAck_ackHold]
  exact (h.sendBits b).ackClock.sample.ackHold _

theorem burst (h : TraceAgrees s) (bs : List Byte) : TraceAgrees (burst bs s) :=
  stopProc (List.foldlRecOn bs _ h.startProc fun _ ht b _ => ht.sendByte b)

theorem writeFrame (h : TraceAgrees s) (seg : List Byte) (pos : BitVec 2) : TraceAgrees (writeFrame seg pos s) :=
  ((h.burst _).burst _).burst _

theorem showNumber (h : TraceAgrees s) (b : Int) (mag : Nat) (dots : Byte) (lz : Bool) (len : BitVec 3) (pos : BitVec 2) :
    TraceAgrees (showNumber b mag dots lz len pos s) := by
  have hencoded : TraceAgrees (encodeNumber b mag dots lz (lenValue len) s) := ⟨h.clk, h.dio, h.ack, h.init, h.delays⟩
  exact hencoded.writeFrame _ pos

theorem initProc (h : TraceAgrees s) : TraceAgrees (initProc s) :=
  (((h.latch .clk).latch .dio).setDir .clk .input).setDir .dio .input

theorem commandEffect (h : TraceAgrees s) (i : Instr) : TraceAgrees (commandEffect i s) := by
  cases i with
  | init => exact h.initProc
  | setbr | encdig => exact ⟨h.clk, h.dio, h.ack, h.init, h.delays⟩
  | bitdly => exact h.bitDelay
  | start => exact h.startProc
  | stop => exact h.stopProc
  | wrbyte b => exact h.sendByte b
  | wrseg | clear => exact h.writeFrame _ _
  | showbase | showdec | showhex => exact h.showNumber _ _ _ _ _ _

/-- A command raises a fault, which writes FCODE alone, or has its effect. -/
theorem exec (h : TraceAgrees s) {i : Instr} {t : State} (he : exec i s = .next t) : TraceAgrees t := by
  obtain ⟨c, -, rfl⟩ | ⟨-, rfl⟩ := exec_next he
  · exact ⟨h.clk, h.dio, h.ack, h.init, h.delays⟩
  · exact h.commandEffect i

end TraceAgrees

theorem traceAgrees_create (c : Config) (k : Nat) : TraceAgrees (State.create c k) := ⟨rfl, rfl, rfl, rfl, by simp [State.create]⟩

end Sys2Proof.Machine
end

section
/-! SUPPORT. What a command keeps of the line directions (10 R39), what the draws change in its effect (40 R105, 60 R211), and the
bounds on its events (70 R247). -/

namespace Sys2Proof.Machine

/-- A command writes both directions or leaves them, but never makes one unknown again. -/
theorem commandEffect_keeps_written (i : Instr) (s : State) :
    (s.clkDir ≠ .unknown → (commandEffect i s).clkDir ≠ .unknown) ∧
      (s.dioDir ≠ .unknown → (commandEffect i s).dioDir ≠ .unknown) := by
  cases i with
  | init => simp [commandEffect, initProc_eq]
  | setbr | encdig | bitdly => exact ⟨id, id⟩
  | start => simp [commandEffect, startProc_eq]
  | stop => simp [commandEffect, stopProc_eq]
  | wrbyte => simp [commandEffect, writeByte_eq, afterByte]
  | wrseg | clear => simp [commandEffect, writeFrame_eq, afterUpdate]
  | showbase | showdec | showhex => simp [commandEffect, showNumber, writeFrame_eq, afterUpdate]

theorem linesWritten_commandEffect {s : State} (h : LinesWritten s) (i : Instr) : LinesWritten (commandEffect i s) := by
  obtain ⟨hclk, hdio⟩ := commandEffect_keeps_written i s
  intro hinit
  rw [(commandEffect_keeps i s).init, Bool.or_eq_true, decide_eq_true_eq] at hinit
  obtain rfl | hinit := hinit
  · simp [commandEffect, initProc_eq]
  · obtain ⟨hc, hd⟩ := h hinit
    exact ⟨hclk hc, hdio hd⟩

theorem commandChecks_withAcks (i : Instr) (s : State) (draws : List Level) :
    commandChecks i { s with acks := draws } = commandChecks i s := by
  cases i <;> rfl

/-- With other draws the effect differs in the draws left, LAST_ACK, the direction of DIO and the trace alone. -/
theorem commandEffect_withAcks (i : Instr) (s : State) (draws : List Level) :
    let u := commandEffect i { s with acks := draws }
    u = { commandEffect i s with acks := u.acks, lastAck := u.lastAck, dioDir := u.dioDir, trace := u.trace } := by
  cases i with
  | init | setbr | encdig | bitdly | start | stop => rfl
  | wrbyte => simp only [commandEffect, writeByte_eq]; rfl
  | wrseg | clear => simp only [commandEffect, writeFrame_eq]; rfl
  | showbase | showdec | showhex => simp only [commandEffect, showNumber, writeFrame_eq]; rfl

/-- The delays and samples a command adds to the trace are those of its row of 70 R244, so no draw counts. -/
theorem commandEffect_countP {i : Instr} (hwf : i.wellFormed = true) (s : State) :
    (commandEffect i s).trace.countP isDly = s.trace.countP isDly + (commandCounts i).dly ∧
      (commandEffect i s).trace.countP isRd = s.trace.countP isRd + (commandCounts i).rd := by
  rw [← countsOf_commandEvents hwf s, commandEffect_trace, List.countP_append, List.countP_append]
  exact ⟨rfl, rfl⟩

/-- The greatest counts of 70 R244 are those of a display update of four bytes (70 R247). -/
theorem commandCounts_le {i : Instr} (hwf : i.wellFormed = true) :
    (commandCounts i).dirLessAcks ≤ 208 ∧ (commandCounts i).dly ≤ 208 ∧ (commandCounts i).rd ≤ 7 ∧ (commandCounts i).wr ≤ 2 := by
  cases i with
  | init | setbr | start | stop | wrbyte | encdig | clear | bitdly => simp [commandCounts]
  | wrseg | showbase | showdec | showhex =>
    simp only [Instr.wellFormed, Bool.and_eq_true, lenInRange_iff] at hwf
    simp only [commandCounts, updateCounts]
    omega

/-- At most one DIR event for each sample is left out of the count (the hold of 40 R103). -/
theorem countP_isLowRd_le (ev : List Event) : ev.countP isLowRd ≤ ev.countP isRd :=
  List.countP_mono_left fun e _ h => by
    cases e with
    | rdDio => rfl
    | dir | wrLow | dly => exact h

theorem commandEvents_bounded {i : Instr} (hwf : i.wellFormed = true) (s : State) :
    (commandEvents i s).countP isDir ≤ 215 ∧ (commandEvents i s).countP isDly ≤ 208 ∧ (commandEvents i s).countP isRd ≤ 7 ∧
      (commandEvents i s).countP isWr ≤ 2 := by
  obtain ⟨hdir, hdly, hrd, hwr⟩ := commandCounts_le hwf
  have hlow := countP_isLowRd_le (commandEvents i s)
  rw [← countsOf_commandEvents hwf s] at hdir hdly hrd hwr
  simp only [countsOf] at hdir hdly hrd hwr
  omega

theorem code_toNat_le (c : FaultCode) : c.code.toNat ≤ 7 := by
  cases c <;> decide

end Sys2Proof.Machine
end

section
/-! CLAIMS. What every step keeps (spec 10, 60): the agreement with the trace, the lines, the configuration, legal fault codes; and
precise faults, outcomes without the acknowledgments, and bounded commands. -/

namespace Sys2Proof.Machine

/-- Settles O41: by the cases of a step; a command keeps the agreement because each primitive does, and a reset empties the trace. -/
theorem stepKeepsTraceAgreement : Obligations.StepKeepsTraceAgreement := by
  intro s t h hstep
  obtain ⟨i, rest, -, he⟩ | ⟨c, rest, -, rfl⟩ | ⟨_, _, _, _, rfl⟩ | ⟨-, rest, rfl⟩ := step_cases hstep
  · have hserved : TraceAgrees { s with requests := rest } := ⟨h.clk, h.dio, h.ack, h.init, h.delays⟩
    exact hserved.exec he
  · exact ⟨h.clk, h.dio, h.ack, h.init, h.delays⟩
  · exact ⟨h.clk, h.dio, h.ack, h.init, h.delays⟩
  · exact ⟨rfl, rfl, rfl, rfl, by simp⟩

/-- Settles O42: nothing is written yet, and the trace is empty. -/
theorem resetAgreesWithTrace : Obligations.ResetAgreesWithTrace :=
  ⟨traceAgrees_create, traceAgrees_create _ _⟩

/-- Settles O43: by the cases of a step; INIT writes both directions, and no command makes one unknown. -/
theorem linesWrittenOnceInitialized : Obligations.LinesWrittenOnceInitialized := by
  refine ⟨fun _ _ hinit => Bool.noConfusion hinit, fun s t h hstep => ?_⟩
  obtain ⟨i, rest, -, he⟩ | ⟨c, rest, -, rfl⟩ | ⟨_, _, _, _, rfl⟩ | ⟨-, rest, rfl⟩ := step_cases hstep
  · obtain ⟨c, -, rfl⟩ | ⟨-, rfl⟩ := exec_next he
    · exact h
    · exact linesWritten_commandEffect (s := { s with requests := rest }) h i
  · exact h
  · exact h
  · exact fun hinit => Bool.noConfusion hinit

/-- Settles O45: by the cases of a step; a reset creates the engine with the configuration it had. -/
theorem configurationNeverChanges : Obligations.ConfigurationNeverChanges := by
  intro s t hstep
  obtain ⟨i, rest, -, he⟩ | ⟨c, rest, -, rfl⟩ | ⟨_, _, _, _, rfl⟩ | ⟨-, rest, rfl⟩ := step_cases hstep
  · obtain ⟨c, -, rfl⟩ | ⟨-, rfl⟩ := exec_next he
    · rfl
    · exact (commandEffect_keeps i _).config
  · rfl
  · rfl
  · rfl

/-- Settles O14: by the cases of a step; FCODE is left alone, raised to one of the seven codes, or reset. -/
theorem faultCodesStayLegal : Obligations.FaultCodesStayLegal := by
  intro s t h hstep
  obtain ⟨-, hfcode⟩ := onlyResetClearsFcode
  obtain hsame | ⟨-, c, hc⟩ | ⟨-, hzero⟩ := hfcode s t hstep
  · rwa [FaultCodeLegal, hsame]
  · rw [FaultCodeLegal, hc]
    exact code_toNat_le c
  · rw [FaultCodeLegal, hzero]
    decide

/-- Settles O11: a command raises its first failing check, which writes FCODE alone, or has its effect, which leaves FCODE. -/
theorem faultsArePrecise : Obligations.FaultsArePrecise := by
  intro i s t h
  obtain ⟨c, -, rfl⟩ | ⟨-, rfl⟩ := exec_next h
  · exact .inr ⟨c, rfl⟩
  · exact .inl (commandEffect_keeps i s).fcode

/-- Settles O35: no check reads a draw, and an effect adds the same numbers of delays and samples for any draws. -/
theorem acknowledgmentsChangeNoOutcome : Obligations.AcknowledgmentsChangeNoOutcome := by
  intro i s draws
  have hchecks := commandChecks_withAcks i s draws
  cases hc : firstFailing (commandChecks i s) with
  | some c => exact ⟨_, _, exec_of_failing hc, exec_of_failing (by rwa [hchecks]), rfl, rfl, rfl⟩
  | none =>
    have hcount := commandEffect_countP (wellFormed_of_firstFailing hc)
    obtain ⟨hdly, hrd⟩ := hcount s
    obtain ⟨hdly', hrd'⟩ := hcount { s with acks := draws }
    exact ⟨_, _, exec_of_checks hc, exec_of_checks (by rwa [hchecks]), commandEffect_withAcks i s draws, hdly'.trans hdly.symm,
      hrd'.trans hrd.symm⟩

/-- Settles O38: a fault adds no event, and a command that completes adds those of its row of 70 R244. -/
theorem everyCommandEndsBounded : Obligations.EveryCommandEndsBounded := by
  intro i s
  cases hc : firstFailing (commandChecks i s) with
  | some c => exact ⟨_, [], exec_of_failing hc, (List.append_nil _).symm, by simp⟩
  | none =>
    exact ⟨_, _, exec_of_checks hc, commandEffect_trace i s, commandEvents_bounded (wellFormed_of_firstFailing hc) s⟩

end Sys2Proof.Machine
end

section
/-! SUPPORT. The SHOW commands of a fixed base beside SHOWBASE (42 R167, R168), and where the digit loop places the minus sign
(42 R160, R161). -/

namespace Sys2Proof.Machine

/-- A well-formed command completes once INIT and BRV are set (60 R206, R207). -/
theorem exec_of_wellFormed {i : Instr} {s : State} (hwf : i.wellFormed = true) (hinit : s.init = true) (hbrv : s.brv = true) :
    exec i s = .next (commandEffect i s) :=
  exec_of_checks (firstFailing_of_completes (by simp [completes, hwf, hinit, hbrv]))

/-- SHOWBASE with a legal base makes the checks of the other SHOW commands. -/
theorem exec_showbase_of_baseInRange {base : BitVec 8} (h : baseInRange base = true) (value : BitVec 16) (dots : Byte) (lz : Bool)
    (len : BitVec 3) (pos : BitVec 2) (s : State) :
    exec (.showbase base value dots lz len pos) s =
      guarded (showChecks pos len s) (showNumber base.toInt value.toNat dots lz len pos) s := by
  have hchecks : firstFailing (showBaseChecks base pos len s) = firstFailing (showChecks pos len s) := by
    simp [showBaseChecks, showChecks, firstFailing_cons, badBase_eq_not_baseInRange, h]
  rw [exec_eq, guarded, guarded, ← hchecks]
  rfl

/-- The base SHOWDEC encodes with, as the byte BASE. -/
theorem decimalBase_eq_toInt (v : Int) : decimalBase v = (if v < 0 then 0xF6#8 else 0x0A#8).toInt := by
  unfold decimalBase
  split_ifs <;> rfl

theorem baseInRange_decimal (v : Int) : baseInRange (if v < 0 then 0xF6#8 else 0x0A#8) = true := by
  split_ifs <;> decide

/-- The magnitude of a signed value, 32768 included, is an unsigned value. -/
theorem toNat_ofNat_natAbs_toInt (value : BitVec 16) : (BitVec.ofNat 16 value.toInt.natAbs).toNat = value.toInt.natAbs := by
  have hle := value.le_toInt
  have hlt := value.toInt_lt
  rw [BitVec.toNat_ofNat, Nat.mod_eq_of_lt (by omega)]

/-- A table that tells the minus sign from the digits: no lookup gives it (42 R170). -/
theorem encodeDigit_ne_minusGlyph {c : Config} (hok : glyphsOk c = true) (d : Nat) : encodeDigit c d ≠ c.minusGlyph := by
  obtain ⟨-, hentry⟩ := (glyphsOk_iff c).mp hok
  obtain ⟨-, hminus, -⟩ := hentry (encodeDigit c d) (by simp [encodeDigit])
  exact hminus

/-- One turn of the digit loop, with the test of 42 R159 said on the running value itself. -/
theorem digitLoop_succ (c : Config) (base : Nat) (lz : Bool) (n v : Nat) (neg : Bool) :
    digitLoop c base lz (n + 1) v neg =
      if v = 0 ∧ lz = false then digitLoop c base lz n 0 false ++ [if neg then c.minusGlyph else blankByte]
      else digitLoop c base lz n (v / base) neg ++ [encodeDigit c (v % base)] := by
  have hdone : (v % base = 0 ∧ v / base = 0 ∧ lz = false) ↔ (v = 0 ∧ lz = false) := by
    constructor
    · rintro ⟨hmod, hdiv, hlz⟩
      exact ⟨by rw [← Nat.div_add_mod v base, hdiv, hmod, Nat.mul_zero], hlz⟩
    · rintro ⟨rfl, hlz⟩
      simp [hlz]
  rw [digitLoop, if_congr hdone rfl rfl]
  by_cases h : v = 0 ∧ lz = false
  · cases neg <;> simp [h]
  · rw [if_neg h, if_neg h]

/-- The digit loop places one minus sign, exactly for a negative base with zeros suppressed and a first position left free. -/
theorem digitLoop_count_minus {c : Config} (hok : glyphsOk c = true) (hblank : blankByte ≠ c.minusGlyph) {base : Nat}
    (hbase : 0 < base) (lz : Bool) (n v : Nat) (neg : Bool) :
    (digitLoop c base lz (n + 1) v neg).count c.minusGlyph = if neg = true ∧ lz = false ∧ v < base ^ n then 1 else 0 := by
  have hdigit (d : Nat) : [encodeDigit c d].count c.minusGlyph = 0 := by simp [encodeDigit_ne_minusGlyph hok]
  induction n generalizing v neg with
  | zero =>
    rw [digitLoop_succ, digitLoop, digitLoop]
    by_cases h : v = 0 ∧ lz = false
    · cases neg <;> simp [h, hblank]
    · have hno : ¬ (neg = true ∧ lz = false ∧ v < base ^ 0) := fun ⟨_, hlz, hv⟩ => h ⟨by simpa using hv, hlz⟩
      rw [if_neg h, if_neg hno, List.nil_append, hdigit]
  | succ n ih =>
    rw [digitLoop_succ]
    by_cases h : v = 0 ∧ lz = false
    · obtain ⟨rfl, rfl⟩ := h
      cases neg <;> simp [hblank, hbase, ih]
    · have hroom : v / base < base ^ n ↔ v < base ^ (n + 1) := by rw [Nat.div_lt_iff_lt_mul hbase, pow_succ]
      simp only [if_neg h, List.count_append, ih, hdigit, Nat.add_zero, hroom]

theorem zeroDigits_count_minus {c : Config} (hok : glyphsOk c = true) (hblank : blankByte ≠ c.minusGlyph) (L : Nat) :
    (zeroDigits c L).count c.minusGlyph = 0 := by
  simp [zeroDigits, List.count_replicate, hblank, encodeDigit_ne_minusGlyph hok]

end Sys2Proof.Machine
end

section
/-! CLAIMS. The numerals (spec 42): SHOWDEC, SHOWHEX, and the minus sign. -/

namespace Sys2Proof.Machine

/-- Settles O26: the command completes with the effect the SHOW commands share, in the base 10 or -10. -/
theorem showdecShowsTheNumeral : Obligations.ShowdecShowsTheNumeral := by
  intro value dots lz len pos s hwf hinit hbrv
  rw [exec_of_wellFormed hwf hinit hbrv]
  simp only [Instr.wellFormed, Bool.and_eq_true, lenInRange_iff] at hwf
  obtain ⟨⟨h1, h4⟩, -⟩ := hwf
  obtain ⟨f, hframe, hshow⟩ := showNumber_shows (decimalBase value.toInt) value.toInt.natAbs dots lz len pos s h1 h4
  exact ⟨f, hframe, congrArg Host.Outcome.next hshow⟩

/-- Settles O27: the command completes with the effect the SHOW commands share, in the base 16. -/
theorem showhexShowsTheNumeral : Obligations.ShowhexShowsTheNumeral := by
  intro value dots lz len pos s hwf hinit hbrv
  rw [exec_of_wellFormed hwf hinit hbrv]
  simp only [Instr.wellFormed, Bool.and_eq_true, lenInRange_iff] at hwf
  obtain ⟨⟨h1, h4⟩, -⟩ := hwf
  obtain ⟨f, hframe, hshow⟩ := showNumber_shows 16 value.toNat dots lz len pos s h1 h4
  exact ⟨f, hframe, congrArg Host.Outcome.next hshow⟩

/-- Settles O28: the bases 10, -10 and 16 are legal, so SHOWBASE makes the same checks and has the same effect. -/
theorem decimalAndHexAreShowbase : Obligations.DecimalAndHexAreShowbase := by
  intro value dots lz len pos s
  constructor
  · rw [exec_showbase_of_baseInRange (baseInRange_decimal _), toNat_ofNat_natAbs_toInt, ← decimalBase_eq_toInt]
    rfl
  · rw [exec_showbase_of_baseInRange (by decide)]
    rfl

/-- Settles O30: in the zero case there is no minus sign, and else the digit loop places it. -/
theorem minusShownWhenThereIsRoom : Obligations.MinusShownWhenThereIsRoom := by
  intro c b mag lz n hok hminus hbase h1 _
  obtain ⟨n, rfl⟩ := Nat.exists_eq_add_of_le' h1
  by_cases hz : mag = 0 ∧ lz = false
  · obtain ⟨rfl, rfl⟩ := hz
    simp [numeralBytes, zeroCase, zeroDigits_count_minus hok hminus.symm]
  · have hcase : zeroCase mag lz = false := by simpa [zeroCase] using hz
    have hcount := digitLoop_count_minus hok hminus.symm (show 0 < b.natAbs by omega) lz n mag (decide (b < 0))
    have hmag : lz = false → mag ≠ 0 := fun hlz hmag => hz ⟨hmag, hlz⟩
    have hroom : (decide (b < 0) = true ∧ lz = false ∧ mag < b.natAbs ^ n) ↔
        (b < 0 ∧ lz = false ∧ mag ≠ 0 ∧ mag < b.natAbs ^ n) := by
      rw [decide_eq_true_iff]
      tauto
    have hbytes : numeralBytes c b mag 0x00#8 lz (n + 1) = digitLoop c b.natAbs lz (n + 1) mag (decide (b < 0)) := by
      simp [numeralBytes, hcase]
    rw [hbytes, hcount, if_congr hroom rfl rfl, Nat.add_sub_cancel]

end Sys2Proof.Machine
end

section
/-! SUPPORT. The assembler (30 R81, R82): each of its functions makes its command exactly when the operands fit, and the fields hold the
operands. -/

namespace Sys2Proof.Machine

/-! An operand fits its range or is an assembly error. -/

theorem upTo_iff (hi x : Int) : upTo hi x = true ↔ 0 ≤ x ∧ x ≤ hi := by
  simp only [upTo, Bool.and_eq_true, decide_eq_true_eq]

theorem asmField_eq (w : Nat) (x : Int) : asmField w x = if upTo (2 ^ w - 1) x then some (BitVec.ofInt w x) else none := by
  simp only [asmField, upTo, Bool.and_eq_true, decide_eq_true_eq, Int.le_sub_one_iff]

theorem asmSigned_eq (w : Nat) (x : Int) :
    asmSigned w x =
      if decide (-(2 ^ (w - 1)) ≤ x) && decide (x ≤ 2 ^ (w - 1) - 1) then some (BitVec.ofInt w x) else none := by
  simp only [asmSigned, Bool.and_eq_true, decide_eq_true_eq, Int.le_sub_one_iff]

/-! The widths of 30 R82. -/

theorem asmField2_eq (x : Int) : asmField 2 x = if upTo 3 x then some (BitVec.ofInt 2 x) else none := asmField_eq 2 x
theorem asmField3_eq (x : Int) : asmField 3 x = if upTo 7 x then some (BitVec.ofInt 3 x) else none := asmField_eq 3 x
theorem asmField8_eq (x : Int) : asmField 8 x = if upTo 255 x then some (BitVec.ofInt 8 x) else none := asmField_eq 8 x
theorem asmField16_eq (x : Int) : asmField 16 x = if upTo 65535 x then some (BitVec.ofInt 16 x) else none := asmField_eq 16 x
theorem asmSigned8_eq (x : Int) :
    asmSigned 8 x = if decide (-128 ≤ x) && decide (x ≤ 127) then some (BitVec.ofInt 8 x) else none := asmSigned_eq 8 x
theorem asmSigned16_eq (x : Int) :
    asmSigned 16 x = if decide (-32768 ≤ x) && decide (x ≤ 32767) then some (BitVec.ofInt 16 x) else none := asmSigned_eq 16 x

theorem asmFlag_eq (x : Int) : asmFlag x = if upTo 1 x then some (decide (x = 1)) else none := by
  by_cases h0 : x = 0
  · rw [h0]
    rfl
  by_cases h1 : x = 1
  · rw [h1]
    rfl
  have hno : ¬ upTo 1 x = true := by
    rw [upTo_iff]
    omega
  rw [asmFlag, if_neg h0, if_neg h1, if_neg hno]

theorem bind_ite_some {α β : Type} (p : Bool) (a : α) (f : α → Option β) :
    ((if p then some a else none) >>= f) = if p then f a else none := by
  cases p <;> rfl

theorem isSome_map_ite_some {α β : Type} (p : Bool) (a : α) (f : α → β) :
    ((if p then some a else none).map f).isSome = p := by
  cases p <;> rfl

/-! Each line with operands. -/

theorem asmSetbr_eq (level on : Int) :
    asmSetbr level on =
      if operandsFit (.setbr level on) then some (.setbr (BitVec.ofInt 3 level) (decide (on = 1))) else none := by
  simp only [asmSetbr, asmField3_eq, asmFlag_eq, bind_ite_some]
  simp only [operandsFit, Bool.and_eq_true, ite_and]
  rfl

theorem asmWrbyte_eq (b : Int) : asmWrbyte b = if operandsFit (.wrbyte b) then some (.wrbyte (BitVec.ofInt 8 b)) else none := by
  rw [asmWrbyte, asmField8_eq, bind_ite_some]
  rfl

theorem asmEncdig_eq (d : Int) : asmEncdig d = if operandsFit (.encdig d) then some (.encdig (BitVec.ofInt 8 d)) else none := by
  rw [asmEncdig, asmField8_eq, bind_ite_some]
  rfl

theorem asmShowbase_eq (base value dots lz len pos : Int) :
    asmShowbase base value dots lz len pos =
      if operandsFit (.showbase base value dots lz len pos) then
        some (.showbase (BitVec.ofInt 8 base) (BitVec.ofInt 16 value) (BitVec.ofInt 8 dots) (decide (lz = 1)) (BitVec.ofInt 3 len)
          (BitVec.ofInt 2 pos))
      else none := by
  simp only [asmShowbase, asmSigned8_eq, asmField16_eq, asmField8_eq, asmFlag_eq, asmField3_eq, asmField2_eq, bind_ite_some]
  simp only [operandsFit, Bool.and_eq_true, ite_and]
  rfl

theorem asmShowdec_eq (value dots lz len pos : Int) :
    asmShowdec value dots lz len pos =
      if operandsFit (.showdec value dots lz len pos) then
        some (.showdec (BitVec.ofInt 16 value) (BitVec.ofInt 8 dots) (decide (lz = 1)) (BitVec.ofInt 3 len) (BitVec.ofInt 2 pos))
      else none := by
  simp only [asmShowdec, asmSigned16_eq, asmField8_eq, asmFlag_eq, asmField3_eq, asmField2_eq, bind_ite_some]
  simp only [operandsFit, Bool.and_eq_true, ite_and]
  rfl

theorem asmShowhex_eq (value dots lz len pos : Int) :
    asmShowhex value dots lz len pos =
      if operandsFit (.showhex value dots lz len pos) then
        some (.showhex (BitVec.ofInt 16 value) (BitVec.ofInt 8 dots) (decide (lz = 1)) (BitVec.ofInt 3 len) (BitVec.ofInt 2 pos))
      else none := by
  simp only [asmShowhex, asmField16_eq, asmField8_eq, asmFlag_eq, asmField3_eq, asmField2_eq, bind_ite_some]
  simp only [operandsFit, Bool.and_eq_true, ite_and]
  rfl

/-- The number the segment operands make, byte k at place 256^k (30 R81). -/
def segsNumber : List Int → Nat
  | [] => 0
  | x :: xs => (BitVec.ofInt 8 x).toNat + 256 * segsNumber xs

theorem asmSegs_eq (xs : List Int) : asmSegs xs = if xs.all (upTo 255) then some (segsNumber xs) else none := by
  induction xs with
  | nil => rfl
  | cons x xs ih =>
    rw [asmSegs, asmField8_eq, ih, List.all_cons]
    cases upTo 255 x <;> cases xs.all (upTo 255) <;> rfl

theorem asmWrseg_eq (pos : Int) (segs : List Int) :
    asmWrseg pos segs =
      if operandsFit (.wrseg pos segs) then
        some (.wrseg (BitVec.ofInt 2 pos) (BitVec.ofNat 3 segs.length) (BitVec.ofNat 32 (segsNumber segs)))
      else none := by
  rw [asmWrseg, asmField2_eq, asmSegs_eq, bind_ite_some, bind_ite_some]
  by_cases hlen : 1 ≤ segs.length ∧ segs.length ≤ 4
  · rw [if_pos hlen]
    obtain ⟨h1, h4⟩ := hlen
    simp [operandsFit, h1, h4, ite_and]
  · rw [if_neg hlen, if_neg]
    simp only [operandsFit, Bool.and_eq_true, decide_eq_true_eq]
    tauto

theorem segsNumber_lt (xs : List Int) : segsNumber xs < 256 ^ xs.length := by
  induction xs with
  | nil => decide
  | cons x xs ih =>
    have hx := (BitVec.ofInt 8 x).isLt
    rw [segsNumber, List.length_cons, pow_succ]
    omega

/-! The operands in the fields (30 R73). -/

theorem toNat_ofInt_of_upTo {w : Nat} {hi x : Int} (h : upTo hi x = true) (hhi : hi < 2 ^ w) :
    ((BitVec.ofInt w x).toNat : Int) = x := by
  obtain ⟨h0, hx⟩ := (upTo_iff hi x).mp h
  rw [BitVec.toNat_ofInt, Nat.cast_pow, Nat.cast_two, Int.emod_eq_of_lt h0 (hx.trans_lt hhi), Int.toNat_of_nonneg h0]

theorem toNat_decide_of_upTo {x : Int} (h : upTo 1 x = true) : ((decide (x = 1)).toNat : Int) = x := by
  obtain ⟨h0, h1⟩ := (upTo_iff 1 x).mp h
  interval_cases x <;> rfl

/-- Segment operand k is segment byte k of the number (20 R56, 30 R81). -/
theorem segsNumber_digit {xs : List Int} (h : xs.all (upTo 255) = true) {k : Nat} {x : Int} (hx : xs[k]? = some x) :
    ((segsNumber xs / 256 ^ k % 256 : Nat) : Int) = x := by
  induction xs generalizing k with
  | nil => simp at hx
  | cons y ys ih =>
    rw [List.all_cons, Bool.and_eq_true] at h
    obtain ⟨hy, hys⟩ := h
    have hlt := (BitVec.ofInt 8 y).isLt
    cases k with
    | zero =>
      obtain rfl : y = x := by simpa using hx
      rw [segsNumber, pow_zero, Nat.div_one, Nat.add_mul_mod_self_left, Nat.mod_eq_of_lt hlt]
      exact toNat_ofInt_of_upTo hy (by decide)
    | succ k =>
      have hrest : segsNumber (y :: ys) / 256 = segsNumber ys := by rw [segsNumber]; omega
      rw [pow_succ', ← Nat.div_div_eq_div_mul, hrest]
      exact ih hys (by simpa using hx)

/-! The commands of a line. -/

theorem operandsFit_dec (v : Int) :
    operandsFit (.showdec v 0 0 4 0) = operandsFit (.dec v) ∧ operandsFit (.showdec v 0 1 4 0) = operandsFit (.decz v) := by
  simp [operandsFit, upTo]

theorem operandsFit_hex (v : Int) :
    operandsFit (.showhex v 0 0 4 0) = operandsFit (.hex v) ∧ operandsFit (.showhex v 0 1 4 0) = operandsFit (.hexz v) := by
  simp [operandsFit, upTo]

theorem operandsFit_frame (s0 s1 s2 s3 : Int) :
    operandsFit (.wrseg 0 [s0, s1, s2, s3]) = operandsFit (.frame s0 s1 s2 s3) := by
  simp [operandsFit, upTo, Bool.and_assoc]

/-- A line is assembled exactly when its operands fit. -/
theorem isSome_assemble (l : AsmLine) : (assemble l).isSome = operandsFit l := by
  cases l with
  | init | start | stop | clear | bitdly => rfl
  | setbr => rw [assemble, asmSetbr_eq, isSome_map_ite_some]
  | wrbyte => rw [assemble, asmWrbyte_eq, isSome_map_ite_some]
  | send =>
    rw [assemble, asmWrbyte_eq, isSome_map_ite_some]
    rfl
  | wrseg => rw [assemble, asmWrseg_eq, isSome_map_ite_some]
  | showbase => rw [assemble, asmShowbase_eq, isSome_map_ite_some]
  | showdec => rw [assemble, asmShowdec_eq, isSome_map_ite_some]
  | showhex => rw [assemble, asmShowhex_eq, isSome_map_ite_some]
  | encdig => rw [assemble, asmEncdig_eq, isSome_map_ite_some]
  | dec v => rw [assemble, asmShowdec_eq, isSome_map_ite_some, (operandsFit_dec v).1]
  | decz v => rw [assemble, asmShowdec_eq, isSome_map_ite_some, (operandsFit_dec v).2]
  | hex v => rw [assemble, asmShowhex_eq, isSome_map_ite_some, (operandsFit_hex v).1]
  | hexz v => rw [assemble, asmShowhex_eq, isSome_map_ite_some, (operandsFit_hex v).2]
  | frame => rw [assemble, asmWrseg_eq, isSome_map_ite_some, operandsFit_frame]

/-- The segment operands fit in the LEN bytes of DATA. -/
theorem asmWrseg_encodable {pos : Int} {segs : List Int} {i : Instr} (h : asmWrseg pos segs = some i) : i.encodable = true := by
  rw [asmWrseg_eq, Option.ite_none_right_eq_some] at h
  obtain ⟨hfit, ⟨⟩⟩ := h
  simp only [operandsFit, Bool.and_eq_true, decide_eq_true_eq] at hfit
  obtain ⟨⟨-, h1⟩, h4⟩ := hfit
  have hlen : (BitVec.ofNat 3 segs.length).toNat = segs.length := by rw [BitVec.toNat_ofNat]; omega
  rw [Instr.encodable, dataFits, hlen, decide_eq_true_iff, BitVec.toNat_ofNat]
  exact (Nat.mod_le _ _).trans_lt (segsNumber_lt segs)

/-- A line makes only commands whose words carry no reserved bit (30 R76): of WRSEG that is seen above, and no other can hold one. -/
theorem assemble_encodable {l : AsmLine} {is : List Instr} {i : Instr} (h : assemble l = some is) (hi : i ∈ is) :
    i.encodable = true := by
  cases l with
  | wrseg | frame =>
    obtain ⟨j, hj, rfl⟩ := Option.map_eq_some_iff.mp h
    obtain rfl := List.mem_singleton.mp hi
    exact asmWrseg_encodable hj
  | init | start | stop | clear | bitdly =>
    cases h
    obtain rfl := List.mem_singleton.mp hi
    rfl
  | setbr | wrbyte | showbase | showdec | showhex | encdig | dec | decz | hex | hexz =>
    obtain ⟨j, hj, rfl⟩ := Option.map_eq_some_iff.mp h
    simp only [asmSetbr_eq, asmWrbyte_eq, asmShowbase_eq, asmShowdec_eq, asmShowhex_eq, asmEncdig_eq,
      Option.ite_none_right_eq_some] at hj
    obtain ⟨-, ⟨⟩⟩ := hj
    obtain rfl := List.mem_singleton.mp hi
    rfl
  | send =>
    obtain ⟨j, hj, rfl⟩ := Option.map_eq_some_iff.mp h
    rw [asmWrbyte_eq, Option.ite_none_right_eq_some] at hj
    obtain ⟨-, ⟨⟩⟩ := hj
    simp only [List.mem_cons, List.not_mem_nil, or_false] at hi
    obtain rfl | rfl | rfl := hi <;> rfl

end Sys2Proof.Machine
end

section
/-! CLAIMS. The assembler (spec 30, part C). -/

namespace Sys2Proof.Machine

/-- Settles O5: every command of a line is encodable, and so its words decode. -/
theorem assemblerRanges : Obligations.AssemblerRanges :=
  ⟨isSome_assemble, fun _ _ i hl hi => decodeOfEncode i (assemble_encodable hl hi)⟩

/-- Settles O6: each assembler function makes its command from operands that fit, and a field of a fitting operand holds it. -/
theorem assembledOperandsAreFields : Obligations.AssembledOperandsAreFields := by
  refine ⟨fun level on h => ?_, fun b h => ?_, fun d h => ?_, fun pos segs h => ?_, fun base value dots lz len pos h => ?_,
    fun value dots lz len pos h => ?_, fun value dots lz len pos h => ?_, fun v => ⟨rfl, rfl, rfl, rfl⟩, fun _ _ _ _ => rfl,
    fun b h => ?_⟩
  · rw [assemble, asmSetbr_eq, if_pos h]
    simp only [operandsFit, Bool.and_eq_true] at h
    obtain ⟨hlevel, hon⟩ := h
    exact ⟨_, _, rfl, toNat_ofInt_of_upTo hlevel (by decide), toNat_decide_of_upTo hon⟩
  · rw [assemble, asmWrbyte_eq, if_pos h]
    exact ⟨_, rfl, toNat_ofInt_of_upTo h (by decide)⟩
  · rw [assemble, asmEncdig_eq, if_pos h]
    exact ⟨_, rfl, toNat_ofInt_of_upTo h (by decide)⟩
  · rw [assemble, asmWrseg_eq, if_pos h]
    simp only [operandsFit, Bool.and_eq_true, decide_eq_true_eq] at h
    obtain ⟨⟨⟨hpos, hsegs⟩, h1⟩, h4⟩ := h
    have hdata : (BitVec.ofNat 32 (segsNumber segs)).toNat = segsNumber segs := by
      rw [BitVec.toNat_ofNat, Nat.mod_eq_of_lt]
      exact (segsNumber_lt segs).trans_le (Nat.pow_le_pow_right (by decide) h4)
    refine ⟨_, _, _, rfl, toNat_ofInt_of_upTo hpos (by decide), ?_, fun k x hx => ?_⟩
    · rw [BitVec.toNat_ofNat]
      omega
    · rw [data8, hdata]
      exact segsNumber_digit hsegs hx
  · rw [assemble, asmShowbase_eq, if_pos h]
    simp only [operandsFit, Bool.and_eq_true, decide_eq_true_eq] at h
    obtain ⟨⟨⟨⟨⟨⟨hlow, hhigh⟩, hvalue⟩, hdots⟩, hlz⟩, hlen⟩, hpos⟩ := h
    exact ⟨_, _, _, _, _, _, rfl, BitVec.toInt_ofInt_eq_self (by decide) hlow (Int.lt_add_one_of_le hhigh),
      toNat_ofInt_of_upTo hvalue (by decide),
      toNat_ofInt_of_upTo hdots (by decide), toNat_decide_of_upTo hlz, toNat_ofInt_of_upTo hlen (by decide),
      toNat_ofInt_of_upTo hpos (by decide)⟩
  · rw [assemble, asmShowdec_eq, if_pos h]
    simp only [operandsFit, Bool.and_eq_true, decide_eq_true_eq] at h
    obtain ⟨⟨⟨⟨⟨hlow, hhigh⟩, hdots⟩, hlz⟩, hlen⟩, hpos⟩ := h
    exact ⟨_, _, _, _, _, rfl, BitVec.toInt_ofInt_eq_self (by decide) hlow (Int.lt_add_one_of_le hhigh),
      toNat_ofInt_of_upTo hdots (by decide),
      toNat_decide_of_upTo hlz, toNat_ofInt_of_upTo hlen (by decide), toNat_ofInt_of_upTo hpos (by decide)⟩
  · rw [assemble, asmShowhex_eq, if_pos h]
    simp only [operandsFit, Bool.and_eq_true] at h
    obtain ⟨⟨⟨⟨hvalue, hdots⟩, hlz⟩, hlen⟩, hpos⟩ := h
    exact ⟨_, _, _, _, _, rfl, toNat_ofInt_of_upTo hvalue (by decide), toNat_ofInt_of_upTo hdots (by decide),
      toNat_decide_of_upTo hlz, toNat_ofInt_of_upTo hlen (by decide), toNat_ofInt_of_upTo hpos (by decide)⟩
  · have hfit : operandsFit (.wrbyte b) = true := h
    rw [assemble, asmWrbyte_eq, if_pos hfit]
    exact ⟨_, rfl, toNat_ofInt_of_upTo hfit (by decide)⟩

end Sys2Proof.Machine
end

section
/-! SUPPORT. The accepted configurations as properties of their numbers (00 R9, 10 R22, 92 D5), and that nothing else is refused. -/

namespace Sys2Proof.Machine

theorem getLsbD_seven_eq_false_iff (g : Byte) : g.getLsbD 7 = false ↔ ¬ 128 ≤ g.toNat := by
  rw [← Bool.not_eq_true, not_iff_not]
  revert g
  decide

theorem glyph_toList (c : Config) : c.glyph.toList = List.ofFn (fun i : Fin 16 => c.glyph[i]) :=
  List.ext_getElem (by simp) fun i _ _ => by rw [List.getElem_ofFn, Vector.getElem_toList]; rfl

theorem glyph_nodup_iff (c : Config) : c.glyph.toList.Nodup ↔ ∀ i j : Fin 16, i ≠ j → c.glyph[i] ≠ c.glyph[j] := by
  rw [glyph_toList, List.nodup_ofFn]
  exact forall₂_congr fun _ _ => not_imp_not.symm

theorem forall_mem_glyph_iff (c : Config) (P : Byte → Prop) : (∀ g ∈ c.glyph.toList, P g) ↔ ∀ i : Fin 16, P c.glyph[i] := by
  rw [glyph_toList, List.forall_mem_ofFn_iff]

theorem cmdAddr_clear_iff (x : Byte) : x &&& 0x03#8 = 0#8 ↔ x.toNat % 4 = 0 := by
  simpa using and_fieldMask_eq_zero_iff x 0 2 (by decide)

theorem cmdDisplay_clear_iff (x : Byte) : x &&& 0x0F#8 = 0#8 ↔ x.toNat % 16 = 0 := by
  simpa using and_fieldMask_eq_zero_iff x 0 4 (by decide)

/-- The configuration check as the rules say it (00 R9, 10 R22, 92 D5). -/
theorem configOk_iff (c : Config) :
    configOk c = true ↔
      c.cmdAddr.toNat % 4 = 0 ∧ c.cmdDisplay.toNat % 16 = 0 ∧ c.clkPin ≠ c.dioPin ∧
        (∀ i j : Fin 16, i ≠ j → c.glyph[i] ≠ c.glyph[j]) ∧
          ∀ i : Fin 16, c.glyph[i] ≠ 0x00#8 ∧ c.glyph[i] ≠ c.minusGlyph ∧ ¬ 128 ≤ c.glyph[i].toNat := by
  simp only [configOk, Bool.and_eq_true, beq_iff_eq, bne_iff_ne, glyphsOk_iff, cmdAddr_clear_iff, cmdDisplay_clear_iff,
    glyph_nodup_iff, forall_mem_glyph_iff, getLsbD_seven_eq_false_iff, and_assoc]

/-- Every command answers a next state. -/
theorem exec_answers (i : Instr) (s : State) : ∃ t, exec i s = .next t := by
  cases hc : firstFailing (commandChecks i s) with
  | some c => exact ⟨_, exec_of_failing hc⟩
  | none => exact ⟨_, exec_of_checks hc⟩

/-- No host access is refused: the machine only stops where a command is not accepted (10 R33). -/
theorem serve_ne_refused (a : HostAccess) (s : State) (r : Refusal) : serve a s ≠ .refused r := by
  cases a with
  | read | reset => exact nofun
  | write offset value =>
    intro h
    simp only [serve, hostWrite] at h
    split at h
    · unfold issue at h
      split_ifs at h
      split at h
      · next i _ =>
        obtain ⟨t, ht⟩ := exec_answers i s
        rw [ht] at h
        cases h
      · cases h
    · cases h
    · cases h

theorem step_eq_refused_iff (s : State) : step s = .refused .badConfiguration ↔ ¬ configOk s.config = true := by
  unfold step
  split_ifs with hc
  · refine iff_of_false ?_ (not_not_intro hc)
    unfold serveNext
    split
    · exact nofun
    · exact serve_ne_refused _ _ _
  · exact iff_of_true rfl hc

/-- Over zeros an OR is a sum. -/
theorem toNat_or_append {m n : Nat} (x : BitVec (m + n)) (y : BitVec n) (h : x.toNat % 2 ^ n = 0) :
    (x ||| (0#m ++ y)).toNat = x.toNat + y.toNat := by
  have hx : x.toNat = 2 ^ n * (x.toNat / 2 ^ n) := (Nat.mul_div_cancel' (Nat.dvd_of_mod_eq_zero h)).symm
  rw [BitVec.toNat_or, toNat_append_eq_add, BitVec.toNat_ofNat, Nat.zero_mod, Nat.mul_zero, Nat.zero_add, hx,
    Nat.two_pow_add_eq_or_of_lt y.isLt]

end Sys2Proof.Machine
end

section
/-! CLAIMS. The configuration (spec 00 R9, 10 R22). -/

namespace Sys2Proof.Machine

/-- Settles O46: the step refuses by the configuration check alone, which is its conditions on numbers; over clear low bits the
command bytes are sums. -/
theorem badConfigurationIsRefused : Obligations.BadConfigurationIsRefused := by
  refine ⟨fun s => ?_, fun c pos brt hok => ?_⟩
  · rw [step_eq_refused_iff, configOk_iff]
    simp only [not_and_or, not_forall, not_not, ne_eq, exists_prop]
  · obtain ⟨haddr, hdisplay, -⟩ := (configOk_iff c).mp hok
    exact ⟨toNat_or_append (m := 6) c.cmdAddr pos haddr, toNat_or_append (m := 4) c.cmdDisplay brt hdisplay⟩

end Sys2Proof.Machine
end

section
/-! SUPPORT. Systems (60 R218, R219, 20 R61): shared pins, what a step does to the other instances, and the traces side by side. -/

namespace Sys2Proof.Machine

theorem sharePin_eq_false_iff (a b : Config) :
    sharePin a b = false ↔ (a.port = b.port →
      a.clkPin ≠ b.clkPin ∧ a.clkPin ≠ b.dioPin ∧ a.dioPin ≠ b.clkPin ∧ a.dioPin ≠ b.dioPin) := by
  simp only [sharePin, Bool.and_eq_false_imp, Bool.or_eq_false_iff, beq_iff_eq, beq_eq_false_iff_ne, and_assoc]

theorem anySharedPin_eq_false_iff (cs : List Config) :
    anySharedPin cs = false ↔ cs.Pairwise (fun a b => sharePin a b = false) := by
  induction cs with
  | nil => simp [anySharedPin]
  | cons c cs ih => simp [anySharedPin, ih]

/-- A system is built from accepted configurations without a shared pin, and holds the instances created in order (60 R218). -/
theorem buildSystem_eq_ok_iff (cs : List Config) (y : System) :
    buildSystem cs = .ok y ↔ (cs.all configOk = true ∧ anySharedPin cs = false) ∧ y = ⟨createFrom 0 cs⟩ := by
  unfold buildSystem
  split_ifs with hok hshared
  · simp [hshared]
  · simp [hok, hshared, eq_comm]
  · simp [hok]

theorem systemStep_other {k : Nat} {y z : System} (h : systemStep k y = .next z) {j : Nat} (hj : j ≠ k) :
    z.instances[j]? = y.instances[j]? := by
  obtain ⟨-, rfl⟩ | ⟨_, t, -, -, rfl⟩ := systemStep_next h
  · rfl
  · exact List.getElem?_set_ne hj.symm

theorem systemStep_self {k : Nat} {y z : System} (h : systemStep k y = .next z) {s : State} (hs : y.instances[k]? = some s) :
    ∃ t, step s = .next t ∧ z.instances[k]? = some t := by
  obtain ⟨hnone, -⟩ | ⟨s', t, hs', ht, rfl⟩ := systemStep_next h
  · rw [hs] at hnone
    cases hnone
  · obtain rfl : s = s' := Option.some.inj (hs.symm.trans hs')
    obtain ⟨hk, -⟩ := List.getElem?_eq_some_iff.mp hs
    exact ⟨t, ht, List.getElem?_set_self hk⟩

/-- Steps of different instances commute (20 R61). -/
theorem systemStep_comm {j k : Nat} (hjk : j ≠ k) {y y1 z : System} (hj : systemStep j y = .next y1)
    (hk : systemStep k y1 = .next z) : ∃ y2, systemStep k y = .next y2 ∧ systemStep j y2 = .next z := by
  have hsame := systemStep_other hj hjk.symm
  obtain ⟨hnone, rfl⟩ | ⟨sk, tk, hsk, htk, rfl⟩ := systemStep_next hk
  · exact ⟨y, systemStep_of_none (hsame.symm.trans hnone), hj⟩
  · have hstep := systemStep_of_step (hsame.symm.trans hsk) htk
    refine ⟨_, hstep, ?_⟩
    have hother := systemStep_other hstep hjk
    obtain ⟨hnone, rfl⟩ | ⟨sj, tj, hsj, htj, rfl⟩ := systemStep_next hj
    · exact systemStep_of_none (hother.trans hnone)
    · rw [systemStep_of_step (hother.trans hsj) htj, List.set_comm _ _ hjk.symm]

/-- The trace of engine i of a system, empty where there is none. -/
def traceOf (y : System) (i : Nat) : List Event := ((y.instances[i]?).map (fun s => s.trace)).getD []

theorem traceOf_other {k : Nat} {y z : System} (h : systemStep k y = .next z) {i : Nat} (hi : i ≠ k) :
    traceOf z i = traceOf y i := by
  rw [traceOf, traceOf, systemStep_other h hi]

/-- A step that does not reset its engine appends events to the trace of that engine (10 R37). -/
theorem traceOf_self {k : Nat} {y z : System} (h : systemStep k y = .next z)
    (hreset : ∀ s, y.instances[k]? = some s → ¬ resetsNow s) : ∃ ev, traceOf z k = traceOf y k ++ ev := by
  obtain ⟨-, -, -, happended⟩ := traceIsOnlyAppended
  cases hs : y.instances[k]? with
  | none =>
    obtain ⟨-, rfl⟩ | ⟨_, _, hsome, -⟩ := systemStep_next h
    · exact ⟨[], (List.append_nil _).symm⟩
    · rw [hs] at hsome
      cases hsome
  | some s =>
    obtain ⟨t, ht, hz⟩ := systemStep_self h hs
    obtain ⟨ev, hev⟩ := happended s t ht (hreset s hs)
    exact ⟨ev, by simp [traceOf, hs, hz, hev]⟩

theorem ofInstance_append (i : Nat) (g g' : List (Nat × Event)) :
    ofInstance i (g ++ g') = ofInstance i g ++ ofInstance i g' := by
  simp [ofInstance]

/-- A list with no event of engine i. -/
theorem ofInstance_eq_nil {i : Nat} {g : List (Nat × Event)} (h : ∀ p ∈ g, p.1 ≠ i) : ofInstance i g = [] := by
  simpa [ofInstance] using h

end Sys2Proof.Machine
end

section
/-! CLAIMS. Several instances (spec 60, 20 R61). -/

namespace Sys2Proof.Machine

/-- Settles O53: a step of a system sets one engine to what its step answers. -/
theorem otherInstancesAreUntouched : Obligations.OtherInstancesAreUntouched :=
  fun _ _ _ h => ⟨fun _ => systemStep_other h, fun _ => systemStep_self h⟩

/-- Settles O54: the two tests of buildSystem are the conditions on the configurations, and the instances are created in order. -/
theorem sharedPinsAreRefused : Obligations.SharedPinsAreRefused := by
  intro cs
  simp only [buildSystem_eq_ok_iff, exists_and_left, exists_eq, and_true, List.all_eq_true, anySharedPin_eq_false_iff,
    sharePin_eq_false_iff, true_and]
  rintro y ⟨-, rfl⟩
  refine ⟨createFrom_length 0 cs, fun k c hk => ?_⟩
  rw [createFrom_get, hk, Nat.zero_add]
  rfl

/-- Settles O55: two steps set two different instances, each from its own state, and each appends to its own trace alone. -/
theorem stepsOfInstancesCommute : Obligations.StepsOfInstancesCommute := by
  intro j k y y1 z hjk hj hk
  refine ⟨systemStep_comm hjk hj hk, fun hreset => ?_⟩
  obtain ⟨ej, hej⟩ := traceOf_self hj fun s hs => hreset j s (.inl rfl) hs
  obtain ⟨ek, hek⟩ := traceOf_self hk fun s hs => hreset k s (.inr rfl) (systemStep_other hj hjk.symm ▸ hs)
  refine ⟨ej, ek, fun g mixed hg hmixed hmj hmk i => ?_⟩
  change ofInstance i (g ++ mixed) = traceOf z i
  have hgi : ofInstance i g = traceOf y i := hg i
  rw [ofInstance_append, hgi]
  by_cases hij : i = j
  · subst hij
    rw [hmj, traceOf_other hk hjk, hej]
  by_cases hik : i = k
  · subst hik
    rw [hmk, hek, traceOf_other hj hjk.symm]
  · have hnone : ofInstance i mixed = [] :=
      ofInstance_eq_nil fun p hp hpi => (hmixed p hp).elim (fun h => hij (hpi.symm.trans h)) (fun h => hik (hpi.symm.trans h))
    rw [hnone, List.append_nil, traceOf_other hk hik, traceOf_other hj hij]

end Sys2Proof.Machine
end

section
/-! SUPPORT. The host's words (10 R34, R35, 20 R51) and the nibble of SETBR (10 R26). -/

namespace Sys2Proof.Machine

/-- A write to an offset that is neither CMD's nor DATA's is ignored (20 R51; log 14). -/
theorem hostWrite_of_ne (s : State) {offset : Word} (value : Word) (h0 : offset.toNat ≠ 0x0) (h4 : offset.toNat ≠ 0x4) :
    hostWrite offset value s = .next s := by
  unfold hostWrite
  split
  · exact absurd ‹_› h0
  · exact absurd ‹_› h4
  · rfl

/-- An offset not listed reads as 0. -/
theorem observeWord_of_unlisted (s : State) {offset : Word} (h0 : offset.toNat ≠ 0x0) (h4 : offset.toNat ≠ 0x4)
    (h8 : offset.toNat ≠ 0x8) (hC : offset.toNat ≠ 0xC) (h10 : offset.toNat ≠ 0x10) : observeWord offset s = seenWord 0#32 := by
  unfold observeWord
  split
  · exact absurd ‹_› h0
  · exact absurd ‹_› h4
  · exact absurd ‹_› h8
  · exact absurd ‹_› hC
  · exact absurd ‹_› h10
  · rfl

/-- Only reads of STATUS, RESULT and BRT can find a register unwritten (10 R35). -/
theorem observeWord_unwritten (s : State) {offset : Word} (hC : offset ≠ 0xC#32) (h10 : offset ≠ 0x10#32) (h8 : offset ≠ 0x8#32) :
    (observeWord offset s).unwritten = none := by
  unfold observeWord
  split
  · rfl
  · rfl
  · exact absurd (BitVec.eq_of_toNat_eq ‹_›) h8
  · exact absurd (BitVec.eq_of_toNat_eq ‹_›) hC
  · exact absurd (BitVec.eq_of_toNat_eq ‹_›) h10
  · rfl

theorem resultWord_eq (s : State) : resultWord s = s.result.setWidth 32 := by
  rw [resultWord, BitVec.setWidth_eq_append (by decide)]
  rfl

theorem brtWord_eq (s : State) : brtWord s = s.brt.setWidth 32 := by
  rw [brtWord, BitVec.setWidth_eq_append (by decide)]
  rfl

theorem observeWord_result (s : State) :
    observeWord 0xC#32 s = if s.rv then ⟨some (s.result.setWidth 32), none⟩ else ⟨none, some .result⟩ := by
  rw [← resultWord_eq]
  rfl

theorem observeWord_brt (s : State) :
    observeWord 0x10#32 s = if s.brv then ⟨some (s.brt.setWidth 32), none⟩ else ⟨none, some .brt⟩ := by
  rw [← brtWord_eq]
  rfl

/-- A command that is not accepted stops the machine (10 R33). -/
theorem issue_of_faulted {s : State} (h : s.fcode ≠ 0#4) (cmd data : Word) : issue cmd data s = .fault .notAccepted :=
  if_neg h

/-- A command that is accepted is what its words decode to, or the decoder's fault (10 R33, 60 R208, R209). -/
theorem issue_of_ok {s : State} {cmd data : Word} {i : Instr} (h0 : s.fcode = 0#4) (h : decode cmd data = .ok i) :
    issue cmd data s = exec i s := by
  rw [issue, if_pos h0, h]

theorem issue_of_error {s : State} {cmd data : Word} {c : FaultCode} (h0 : s.fcode = 0#4) (h : decode cmd data = .error c) :
    issue cmd data s = .next (raiseFault c s) := by
  rw [issue, if_pos h0, h]

/-- BRT after SETBR as a number: ON at bit 3 over LEVEL. -/
theorem packBrightness_eq (level : BitVec 3) (on : Bool) :
    packBrightness level on = BitVec.ofNat 4 (8 * on.toNat + level.toNat) := by
  revert level on
  decide

end Sys2Proof.Machine
end

section
/-! CLAIMS. The step and the host's words (spec 10 R33 to R35, 20 R51, 60, 70 R230). -/

namespace Sys2Proof.Machine

/-- Settles O7: the step serves the write of CMD, which issues the pair. -/
theorem stepRunsTheDecodedCommand : Obligations.StepRunsTheDecodedCommand := by
  intro s cmd data rest h
  have hstep := step_of_issuesNow h
  obtain ⟨-, hfcode, -, -⟩ := h
  exact ⟨fun i hi => hstep.trans (issue_of_ok hfcode hi), fun c hc => hstep.trans (issue_of_error hfcode hc)⟩

/-- Settles O8: with no access pending there is nothing to serve. -/
theorem idleBetweenCommands : Obligations.IdleBetweenCommands := by
  intro s hc hr
  rw [step, if_pos hc, serveNext, hr]

/-- Settles O12: the step serves the write of CMD, and the command is not accepted. -/
theorem faultedEngineAcceptsNoCommand : Obligations.FaultedEngineAcceptsNoCommand := by
  intro s cmd rest hc hfcode hr
  exact (step_serve hc hr).trans (issue_of_faulted (s := { s with requests := rest }) hfcode cmd s.dataReg)

/-- Settles O48: the step serves the reset, which is the creation with the configuration the engine has. -/
theorem hostResetCreatesTheInstance : Obligations.HostResetCreatesTheInstance :=
  fun _ _ hc hr => step_serve hc hr

/-- Settles O50: the read records what observeWord says of each offset. -/
theorem unwrittenReadsAreObservationFaults : Obligations.UnwrittenReadsAreObservationFaults := by
  intro s offset rest hc hr
  refine ⟨observeWord offset { s with requests := rest }, step_serve hc hr, ?_, ?_, ?_, fun hC h10 h8 =>
    observeWord_unwritten _ hC h10 h8⟩
  · rintro rfl
    exact observeWord_result _
  · rintro rfl
    exact observeWord_brt _
  · rintro rfl
    exact ⟨rfl, rfl⟩

/-- Settles O51: the step serves the access, and no clause's offset is one that does more. -/
theorem otherOffsets : Obligations.OtherOffsets := by
  intro s offset value rest hc
  refine ⟨fun hr h0 h4 h8 hC h10 => ?_, fun hr h0 h4 => ?_, fun hr => step_serve hc hr⟩
  · rw [step_serve hc hr, serve, hostRead, observeWord_of_unlisted _ h0 h4 h8 hC h10]
    rfl
  · rw [step_serve hc hr]
    exact hostWrite_of_ne _ value h0 h4

/-- Settles O52: the step keeps the word in DATA, and the write of CMD comes next. -/
theorem commandUsesTheLastData : Obligations.CommandUsesTheLastData :=
  fun _ _ _ _ hc hfcode hr => ⟨_, step_serve hc hr, ⟨hc, hfcode, rfl, rfl⟩, rfl⟩

end Sys2Proof.Machine
end

section
/-! CLAIMS. The commands INIT, SETBR, START, STOP and CLEAR (spec 40, 41, 43). -/

namespace Sys2Proof.Machine

/-- Settles O15: the command has no check, and its effect in one update is the statement. -/
theorem initReleasesBothLines : Obligations.InitReleasesBothLines :=
  fun s => (exec_of_checks rfl).trans (congrArg Host.Outcome.next (initProc_eq s))

/-- Settles O17: the command has no check, and packs ON over LEVEL. -/
theorem setbrStoresTheNibble : Obligations.SetbrStoresTheNibble := by
  intro level on s
  rw [← packBrightness_eq]
  exact exec_of_checks rfl

/-- Settles O19: after INIT the command has its effect; on the lines its one change is the fall of DIO. -/
theorem startDrivesDioLow : Obligations.StartDrivesDioLow := by
  intro s hinit
  refine ⟨?_, fun m => ?_⟩
  · calc exec .start s
        = .next (startProc s) := exec_of_checks (firstFailing_pinChecks hinit)
      _ = _ := by rw [startProc_eq]; rfl
  · by_cases h : m.clk = .high ∧ m.dio = .high
    · simp [observe, h]
    · simp [observe, h]

/-- Settles O20: after INIT the command has its effect; before its last direction change CLK is released and DIO driven. -/
theorem stopReleasesBothLines : Obligations.StopReleasesBothLines := by
  intro s hinit
  refine ⟨?_, fun m => ?_⟩
  · calc exec .stop s
        = .next (stopProc s) := exec_of_checks (firstFailing_pinChecks hinit)
      _ = _ := by rw [stopProc_eq]; rfl
  · cases hclk : m.clk <;> cases hdio : m.dio <;> simp [observe, hclk, hdio]

/-- Settles O23: no check fails, so the command has its effect, which is WriteFrame of four blanks. -/
theorem clearSendsFourBlanks : Obligations.ClearSendsFourBlanks := by
  intro s hinit hbrv
  calc exec .clear s
      = .next (writeFrame [blankByte, blankByte, blankByte, blankByte] 0#2 s) := exec_of_wellFormed rfl hinit hbrv
    _ = .next (afterUpdate [0x00#8, 0x00#8, 0x00#8, 0x00#8] 0#2 s) := by rw [writeFrame_eq]; rfl

end Sys2Proof.Machine
end
